-- ==== Sys2Proof/Word.lean ====
section
/-!
DEFINITION. Bytes, 16-bit addresses and the block's fixed vocabularies: the framing states, the two
wire commands, what follows the address in an addressed frame, and where a payload lives.
-/

namespace Sys2Proof

/-- 00 section 5: a byte is an 8-bit unsigned value. -/
abbrev Byte := BitVec 8

/-- 00 section 5: a u16; every VP address is one (30/R66). -/
abbrev Addr := BitVec 16

/-- 10/R11: the framing state. The source gives no binary encoding, and `st` is on no port. -/
inductive RxState where
  | idle
  | header1Seen
  | header2Seen
  | awaitingBody
  deriving DecidableEq, Repr

/-- 30/R52: the two command codes the TX encoder sends. -/
inductive WireCommand where
  | writevar
  | readvar
  deriving DecidableEq, Repr

/-- 00/R6, 30/R52: READVAR = 0x83, WRITEVAR = 0x82. -/
def WireCommand.code : WireCommand → Byte
  | .writevar => 0x82#8
  | .readvar => 0x83#8

/-- 30/R53: after the address a frame of the TX encoder carries "the payload (for writes) or, for
reads, a single byte stating how many words to read". -/
inductive AddressedPayload where
  | data (bytes : List Byte)
  | wordCount (n : Byte)
  deriving DecidableEq, Repr

/-- 30/R53: writes carry WRITEVAR, reads carry READVAR. -/
def AddressedPayload.command : AddressedPayload → WireCommand
  | .data _ => .writevar
  | .wordCount _ => .readvar

/-- The bytes after the address. -/
def AddressedPayload.bytes : AddressedPayload → List Byte
  | .data d => d
  | .wordCount n => [n]

/-- 20/R38: the space a payload source lives in. -/
inductive Space where
  | ram
  | rom
  deriving DecidableEq, Repr

end Sys2Proof
end

