-- ==== Sys2Proof/Config.lean ====
section
/-!
DEFINITION. The parameters of 00 section 3 (fixed when the block is built, 10/R16), the
environment's parameters, and the free values: uninterpreted constants with no body.
-/

namespace Sys2Proof

/-- 49/R121: one row of the VP table: address, size in bytes, the RXSTRING flag, and the handler
reference (absent: the row has no handler). Handlers are only named, by a number. -/
structure VpRow where
  addr : Addr
  size : Byte
  rxString : Bool
  handler : Option Nat
  deriving DecidableEq, Repr

/-- The parameters. `MAX_BUFFER` is held as its excess over 3, so that 00/R5's constraint
`3 ≤ MAX_BUFFER ≤ 255` holds of every value of this type (93/U9: outside it nothing is modelled). -/
structure Config where
  /-- 00/R4: magic byte 1. -/
  h1 : Byte
  /-- 00/R4: magic byte 2; not assumed different from `h1`. -/
  h2 : Byte
  /-- 00/R5: `MAX_BUFFER - 3`. -/
  maxBufferOver3 : Fin 253
  /-- 00/R7. -/
  overrunSupported : Bool
  /-- 49/R114, 91/N4: the dispatcher's version address (environment; no value in the source). -/
  versionAddr : Addr
  /-- 49/R121: the VP table (environment). -/
  vpTable : List VpRow
  deriving DecidableEq, Repr

/-- 00/R5: the largest accepted length field and the capacity of the scratch buffer. -/
def Config.maxBuffer (c : Config) : Nat := 3 + c.maxBufferOver3.val

/-- 00/R4, 91/N1: open. -/
opaque Config.builtH1 : Byte
/-- 00/R4, 91/N1: open. -/
opaque Config.builtH2 : Byte
/-- 00/R5, 91/N2: open. -/
opaque Config.builtMaxBufferOver3 : Fin 253
/-- 00/R7: open. -/
opaque Config.builtOverrunSupported : Bool
/-- 91/N4: open. -/
opaque Config.builtVersionAddr : Addr
/-- 49/R121: open. -/
opaque Config.builtVpTable : List VpRow

/-- The configuration of the built block: nothing is assumed of it beyond 00 section 3. -/
def Config.built : Config where
  h1 := Config.builtH1
  h2 := Config.builtH2
  maxBufferOver3 := Config.builtMaxBufferOver3
  overrunSupported := Config.builtOverrunSupported
  versionAddr := Config.builtVersionAddr
  vpTable := Config.builtVpTable

/-- 10/R19, 93/U4: the overrun indicator's value at the n-th draw. -/
opaque Config.freeOverrun : Nat → Bool
/-- 20/R35, 93/U2: how many of the oldest received bytes are gone after a `flush()`, at the n-th draw. -/
opaque Config.freeFlushDrop : Nat → Nat
/-- 10/R22, 93/U5: `explen` after the reset made at the n-th draw. -/
opaque Config.freeExplen : Nat → Byte
/-- 91/N24: what the dispatcher finds at a body index the body does not have, at the n-th draw. -/
opaque Config.freeBodyByte : Nat → Nat → Byte
/-- 49/R123: the cached GUI version before any version reply. -/
opaque Config.freeGuiVersion : Byte
/-- 49/R123: the cached OS version before any version reply. -/
opaque Config.freeOsVersion : Byte

/-- 00/R6 (ASCII): the padding byte when `padWithSpace` is true. -/
def Config.space : Byte := 0x20#8
/-- 00/R6: the padding byte when `padWithSpace` is false. -/
def Config.nul : Byte := 0x00#8
/-- 41/R98: the largest `size` or `width` of the TX encoder's caller contract. -/
def Config.maxPayload : Nat := 252

end Sys2Proof
end

