-- ==== Sys2Proof/Syntax.lean ====
section
/-!
DEFINITION. The operations: one constructor for each row of spec/opcode_table.json. An operand is
what the row's encoding or its rule calls an operand; an RX arm's variable byte pattern
(`bbbbbbbb`, `LLLLLLLL`, `cccccccc ...`) is the byte or bytes it consumes.
-/

namespace Sys2Proof

/-- 30/R65 and the table's rows. -/
inductive Instr where
  /-- SERVICE, 40/R70. -/
  | service
  /-- RX.OVERRUN, 40/R71. -/
  | rxOverrun
  /-- RX.IDLE_h1, 40/R72: the byte is `H1`. -/
  | rxIdleH1
  /-- RX.IDLE_drop, 40/R72: any other byte. -/
  | rxIdleDrop (b : Byte)
  /-- RX.H1SEEN_h2, 40/R73: the byte is `H2`. -/
  | rxH1SeenH2
  /-- RX.H1SEEN_miss, 40/R73: any other byte. -/
  | rxH1SeenMiss (b : Byte)
  /-- RX.H2SEEN_accept, 40/R74: a legal length byte. -/
  | rxH2SeenAccept (len : Byte)
  /-- RX.H2SEEN_reject, 40/R74: any other length byte. -/
  | rxH2SeenReject (len : Byte)
  /-- RX.HOLD, 40/R75. -/
  | rxHold
  /-- RX.BODY, 40/R76: the command byte and the body bytes it consumes. -/
  | rxBody (cmd : Byte) (body : List Byte)
  /-- TX.HEADER, 41/R91. -/
  | txHeader (addr : Addr) (cmd : WireCommand) (size : Nat)
  /-- TX.READ, 41/R92. -/
  | txRead (addr : Addr) (wordCount : Byte)
  /-- TX.WRITE, 41/R93: `none` is the absent payload. -/
  | txWrite (addr : Addr) (bytes : Option (List Byte))
  /-- TX.WRITESTR, 41/R95: `none` is the absent text. -/
  | txWritestr (addr : Addr) (text : Option (List Byte)) (width : Nat) (alignLeft alignRight padWithSpace : Bool)
  /-- TX.WRITESTR_ROM, 41/R96. -/
  | txWritestrRom (addr : Addr) (text : Option (List Byte)) (width : Nat) (alignLeft alignRight padWithSpace : Bool)
  /-- PADSPLIT, 41/R94. -/
  | padsplit (len width : Nat) (alignLeft alignRight : Bool)
  /-- WRITEVAR, 30/R52: the command byte 0x82 on the wire. -/
  | writevar
  /-- READVAR, 30/R52: the command byte 0x83 on the wire. -/
  | readvar
  /-- FRAME, 30/R50: a datagram from the display. -/
  | frame (cmd : Byte) (body : List Byte)
  /-- FRAME.ADDRESSED, 30/R53: a frame the TX encoder builds. -/
  | frameAddressed (addr : Addr) (payload : AddressedPayload)
  /-- FRAME.READ_REQUEST, 30/R54. -/
  | frameReadRequest (addr : Addr) (wordCount : Byte)
  /-- FRAME.WRITE_REQUEST, 30/R55. -/
  | frameWriteRequest (addr : Addr) (data : List Byte)
  /-- FRAME.READVAR_REPORT, 30/R56. -/
  | frameReadvarReport (addr : Addr) (wordLen : Byte) (data : List Byte)
  /-- FRAME.WRITE_ACK, 30/R57. -/
  | frameWriteAck
  deriving DecidableEq, Repr

end Sys2Proof
end

