-- ==== Sys2Proof/WellFormed.lean ====
section
/-!
DEFINITION. Which operand values the spec's encodings and operand tables admit (30/R59, R65, R66).
The byte classes of the RX arms depend on the parameters.
-/

namespace Sys2Proof

/-- 40/R74: a length byte the RX framer accepts, both bounds inclusive. -/
def legalLength (c : Config) (len : Byte) : Bool :=
  decide (3 ≤ len.toNat) && decide (len.toNat ≤ c.maxBuffer)

/-- 30/R50: the length field a datagram with this body carries, as a number. -/
def frameLength (body : List Byte) : Nat := body.length + 1

/-- 30/R50: `3 ≤ L ≤ MAX_BUFFER` for a datagram with this body. -/
def legalBody (c : Config) (body : List Byte) : Bool :=
  decide (3 ≤ frameLength body) && decide (frameLength body ≤ c.maxBuffer)

/-- The operands are among those the instruction's rule admits. -/
def Instr.wellFormed (c : Config) : Instr → Bool
  | .service => true
  | .rxOverrun => true
  | .rxIdleH1 => true
  | .rxIdleDrop b => decide (b ≠ c.h1)
  | .rxH1SeenH2 => true
  | .rxH1SeenMiss b => decide (b ≠ c.h2)
  | .rxH2SeenAccept len => legalLength c len
  | .rxH2SeenReject len => !legalLength c len
  | .rxHold => true
  | .rxBody _ body => legalBody c body
  | .txHeader _ _ size => decide (size ≤ Config.maxPayload)
  | .txRead _ _ => true
  | .txWrite _ none => true
  | .txWrite _ (some d) => decide (d.length ≤ Config.maxPayload)
  | .txWritestr _ none _ _ _ _ => true
  | .txWritestr _ (some _) width _ _ _ => decide (width ≤ Config.maxPayload)
  | .txWritestrRom _ none _ _ _ _ => true
  | .txWritestrRom _ (some _) width _ _ _ => decide (width ≤ Config.maxPayload)
  | .padsplit len width _ _ => decide (len < width)
  | .writevar => true
  | .readvar => true
  | .frame _ body => legalBody c body
  | .frameAddressed _ p => decide (p.bytes.length ≤ Config.maxPayload)
  | .frameReadRequest _ _ => true
  | .frameWriteRequest _ d => decide (d.length ≤ Config.maxPayload)
  | .frameReadvarReport _ _ d => decide (d.length + 4 ≤ c.maxBuffer)
  | .frameWriteAck => true

end Sys2Proof
end

