-- ==== Sys2Proof/Machine/Format.lean ====
section
/-!
DEFINITION. The frame layouts of 30/R50 to R58 and the string field of 41/R94, R95 as byte
sequences: pure functions, no state.
-/

namespace Sys2Proof

/-- 30/R58 (b): `addr[15:8]`. -/
def hi8 (a : Addr) : Byte := a.extractLsb' 8 8
/-- 30/R58 (b): `addr[7:0]`. -/
def lo8 (a : Addr) : Byte := a.extractLsb' 0 8
/-- 20/R40: an address from its bytes, high byte first. -/
def addrOf (hi lo : Byte) : Addr := (hi ++ lo : BitVec (8 + 8))

/-- 30/R50: the bytes of a datagram: `H1 H2 L cmd body`, with `L = |body| + 1`. -/
def frameBytes (c : Config) (cmd : Byte) (body : List Byte) : List Byte :=
  c.h1 :: c.h2 :: BitVec.ofNat 8 (frameLength body) :: cmd :: body

/-- 30/R53, offsets 0 to 5: `H1 H2 (size+3) cmd AddrHi AddrLo`. -/
def headerBytes (c : Config) (addr : Addr) (cmd : WireCommand) (size : Nat) : List Byte :=
  [c.h1, c.h2, BitVec.ofNat 8 (size + 3), cmd.code, hi8 addr, lo8 addr]

/-- 30/R53: the bytes of a frame the TX encoder builds. -/
def addressedBytes (c : Config) (addr : Addr) (p : AddressedPayload) : List Byte :=
  headerBytes c addr p.command p.bytes.length ++ p.bytes

/-- 30/R56: the body of a READVAR report. -/
def reportBody (addr : Addr) (wordLen : Byte) (data : List Byte) : List Byte :=
  hi8 addr :: lo8 addr :: wordLen :: data

/-- 30/R57: the characters "OK" (ASCII). -/
def ackBody : List Byte := [0x4F#8, 0x4B#8]

/-- 41/R94, for `len < width`: the numbers of padding bytes before and after the text. -/
def padSplit (len width : Nat) (alignLeft alignRight : Bool) : Nat × Nat :=
  let remainder := width - len
  if len = 0 then (0, remainder)
  else if alignLeft = alignRight then (remainder / 2, remainder - remainder / 2)
  else if alignLeft then (0, remainder)
  else (remainder, 0)

/-- 41/R95: the padding byte. -/
def padByte (padWithSpace : Bool) : Byte := if padWithSpace then Config.space else Config.nul

/-- 41/R95: the `width` bytes of a string field. -/
def stringField (text : List Byte) (width : Nat) (alignLeft alignRight padWithSpace : Bool) : List Byte :=
  if width ≤ text.length then text.take width
  else
    let split := padSplit text.length width alignLeft alignRight
    List.replicate split.1 (padByte padWithSpace) ++ text ++ List.replicate split.2 (padByte padWithSpace)

end Sys2Proof
end

