-- ==== Sys2Proof/Decode.lean ====
section
/-!
DEFINITION. The decoder and the encoder. Two things are encoded in this block (spec/30): the frames
on the wire, and the RX framer's selection of an operation (the decode table of 30/R59). The same
bytes mean different rows in different places (a read request is sent by TX.READ; the bytes 0x82
are a command byte in one place and a length in another), so decoding takes the place it reads at,
a `DecodeContext`. Decoding is total and rejects by name.
-/

namespace Sys2Proof

/-- Where a byte sequence is read. -/
inductive DecodeContext where
  /-- The receive stream, as the RX framer in state `st` with expected length `explen` reads it. -/
  | rx (st : RxState) (explen : Byte)
  /-- Frame offset 3: the command byte (30/R52). -/
  | command
  /-- A frame from the display (30/R50, R56, R57). -/
  | inbound
  /-- A frame to the display, read as a frame layout (30/R53 to R55). -/
  | outbound
  /-- A frame to the display, read as the TX operation that emits it (41/R92, R93). -/
  | host
  /-- Offsets 0 to 5 of a frame to the display (41/R91). -/
  | header
  deriving DecidableEq, Repr

/-- Why bytes decode to nothing. -/
inductive DecodeError where
  /-- No byte is there: `rx_avail() == 0`, where SERVICE returns (30/R59). -/
  | noByte
  /-- The first byte of a frame is not `H1`. -/
  | badMagic1
  /-- The second byte of a frame is not `H2`. -/
  | badMagic2
  /-- 30/R60: the length byte is outside the legal range. -/
  | illegalLength (len : Byte)
  /-- Fewer bytes than the length byte announces. -/
  | truncated
  /-- 30/R62: a command byte that is neither WRITEVAR nor READVAR. -/
  | unknownCommand (b : Byte)
  /-- 30/R53: no frame the TX encoder builds (no address, or a read request without its one byte). -/
  | notEncoderFrame
  /-- Bytes are left after the one frame. -/
  | trailingBytes
  deriving DecidableEq, Repr

/-- What decoding answers: the operation and the bytes after it. -/
abbrev Decoded := Except DecodeError (Instr × List Byte)

/-- 30/R59, row by row: what the RX framer does with the receive stream. RX.HOLD consumes nothing. -/
def decodeRx (c : Config) (st : RxState) (explen : Byte) : List Byte → Decoded
  | [] => .error .noByte
  | b :: t =>
    match st with
    | .idle => if b = c.h1 then .ok (.rxIdleH1, t) else .ok (.rxIdleDrop b, t)
    | .header1Seen => if b = c.h2 then .ok (.rxH1SeenH2, t) else .ok (.rxH1SeenMiss b, t)
    | .header2Seen => if legalLength c b then .ok (.rxH2SeenAccept b, t) else .ok (.rxH2SeenReject b, t)
    | .awaitingBody =>
      if t.length + 1 < explen.toNat then .ok (.rxHold, b :: t)
      else .ok (.rxBody b (t.take (explen.toNat - 1)), t.drop (explen.toNat - 1))

/-- 30/R52. -/
def WireCommand.ofCode (b : Byte) : Option WireCommand :=
  if b = WireCommand.writevar.code then some .writevar
  else if b = WireCommand.readvar.code then some .readvar
  else none

/-- 30/R52: the command byte rows. -/
def decodeCommand : List Byte → Decoded
  | [] => .error .noByte
  | b :: t =>
    match WireCommand.ofCode b with
    | some .writevar => .ok (.writevar, t)
    | some .readvar => .ok (.readvar, t)
    | none => .error (.unknownCommand b)

/-- A frame taken apart: command byte, body, and the bytes after the frame. -/
structure SplitFrame where
  cmd : Byte
  body : List Byte
  rest : List Byte
  deriving DecidableEq, Repr

/-- 30/R50, R51, R64: the length of a frame is known from its third byte alone, which counts the
command byte and the body; `maxLen` is the largest length the reader admits. -/
def splitFrame (c : Config) (maxLen : Nat) : List Byte → Except DecodeError SplitFrame
  | m1 :: m2 :: len :: t =>
    if m1 ≠ c.h1 then .error .badMagic1
    else if m2 ≠ c.h2 then .error .badMagic2
    else if len.toNat < 3 ∨ maxLen < len.toNat then .error (.illegalLength len)
    else if t.length < len.toNat then .error .truncated
    else
      match t with
      | [] => .error .truncated
      | cmd :: d => .ok ⟨cmd, d.take (len.toNat - 1), d.drop (len.toNat - 1)⟩
  | [] => .error .noByte
  | _ => .error .truncated

/-- The row of a frame from the display: the acknowledgment (30/R57), a READVAR report (30/R56), or
the general frame (30/R50). The framer itself does not look at these (30/R62). -/
def inboundRow (cmd : Byte) (body : List Byte) : Instr :=
  if cmd = WireCommand.writevar.code ∧ body = ackBody then .frameWriteAck
  else if cmd = WireCommand.readvar.code then
    match body with
    | hi :: lo :: wordLen :: d => .frameReadvarReport (addrOf hi lo) wordLen d
    | _ => .frame cmd body
  else .frame cmd body

/-- 30/R53: the address and the payload of a frame the TX encoder builds. -/
def splitAddressed (cmd : Byte) (body : List Byte) : Option (Addr × AddressedPayload) :=
  match WireCommand.ofCode cmd, body with
  | some .writevar, hi :: lo :: d => some (addrOf hi lo, .data d)
  | some .readvar, [hi, lo, n] => some (addrOf hi lo, .wordCount n)
  | _, _ => none

/-- The frame layout of an outgoing frame (30/R54, R55). -/
def outboundRow (addr : Addr) : AddressedPayload → Instr
  | .data d => .frameWriteRequest addr d
  | .wordCount n => .frameReadRequest addr n

/-- The TX operation that emits an outgoing frame (41/R92, R93). -/
def hostRow (addr : Addr) : AddressedPayload → Instr
  | .data d => .txWrite addr (some d)
  | .wordCount n => .txRead addr n

/-- A frame from the display: `3 ≤ L ≤ MAX_BUFFER` (30/R50). -/
def decodeInbound (c : Config) (bs : List Byte) : Decoded :=
  match splitFrame c c.maxBuffer bs with
  | .error e => .error e
  | .ok f => .ok (inboundRow f.cmd f.body, f.rest)

/-- A frame to the display. The encoder does not know MAX_BUFFER (41/R99): any length byte from 3 on. -/
def decodeOutgoing (c : Config) (row : Addr → AddressedPayload → Instr) (bs : List Byte) : Decoded :=
  match splitFrame c 255 bs with
  | .error e => .error e
  | .ok f =>
    match splitAddressed f.cmd f.body with
    | none => .error .notEncoderFrame
    | some (addr, p) => .ok (row addr p, f.rest)

/-- 41/R91: the six header bytes. -/
def decodeHeader (c : Config) : List Byte → Decoded
  | m1 :: m2 :: len :: cmd :: hi :: lo :: t =>
    if m1 ≠ c.h1 then .error .badMagic1
    else if m2 ≠ c.h2 then .error .badMagic2
    else if len.toNat < 3 then .error (.illegalLength len)
    else
      match WireCommand.ofCode cmd with
      | none => .error (.unknownCommand cmd)
      | some k => .ok (.txHeader (addrOf hi lo) k (len.toNat - 3), t)
  | [] => .error .noByte
  | _ => .error .truncated

/-- The decoder: total on any bytes at any place. -/
def decode (c : Config) : DecodeContext → List Byte → Decoded
  | .rx st explen, bs => decodeRx c st explen bs
  | .command, bs => decodeCommand bs
  | .inbound, bs => decodeInbound c bs
  | .outbound, bs => decodeOutgoing c outboundRow bs
  | .host, bs => decodeOutgoing c hostRow bs
  | .header, bs => decodeHeader c bs

/-- The bytes of an operation: what it consumes (RX), what it emits (TX), the frame itself. Rows with
no bit pattern (SERVICE, RX.OVERRUN, RX.HOLD, PADSPLIT) and TX operations with an absent payload
(41/R97) have none. -/
def encode (c : Config) : Instr → List Byte
  | .service => []
  | .rxOverrun => []
  | .rxIdleH1 => [c.h1]
  | .rxIdleDrop b => [b]
  | .rxH1SeenH2 => [c.h2]
  | .rxH1SeenMiss b => [b]
  | .rxH2SeenAccept len => [len]
  | .rxH2SeenReject len => [len]
  | .rxHold => []
  | .rxBody cmd body => cmd :: body
  | .txHeader addr cmd size => headerBytes c addr cmd size
  | .txRead addr n => addressedBytes c addr (.wordCount n)
  | .txWrite _ none => []
  | .txWrite addr (some d) => addressedBytes c addr (.data d)
  | .txWritestr _ none _ _ _ _ => []
  | .txWritestr addr (some text) width aL aR sp => addressedBytes c addr (.data (stringField text width aL aR sp))
  | .txWritestrRom _ none _ _ _ _ => []
  | .txWritestrRom addr (some text) width aL aR sp => addressedBytes c addr (.data (stringField text width aL aR sp))
  | .padsplit _ _ _ _ => []
  | .writevar => [WireCommand.writevar.code]
  | .readvar => [WireCommand.readvar.code]
  | .frame cmd body => frameBytes c cmd body
  | .frameAddressed addr p => addressedBytes c addr p
  | .frameReadRequest addr n => addressedBytes c addr (.wordCount n)
  | .frameWriteRequest addr d => addressedBytes c addr (.data d)
  | .frameReadvarReport addr w d => frameBytes c WireCommand.readvar.code (reportBody addr w d)
  | .frameWriteAck => frameBytes c WireCommand.writevar.code ackBody

/-- The place at which an operation's own bytes decode back to it. None for operations without bytes,
and for rows that are another name of another row's bytes: the string writes (bytes of TX.WRITE),
FRAME.ADDRESSED (bytes of a read or write request), and a general FRAME that is an acknowledgment or
a report. -/
def Instr.homeContext : Instr → Option DecodeContext
  | .service => none
  | .rxOverrun => none
  | .rxIdleH1 => some (.rx .idle 0)
  | .rxIdleDrop _ => some (.rx .idle 0)
  | .rxH1SeenH2 => some (.rx .header1Seen 0)
  | .rxH1SeenMiss _ => some (.rx .header1Seen 0)
  | .rxH2SeenAccept _ => some (.rx .header2Seen 0)
  | .rxH2SeenReject _ => some (.rx .header2Seen 0)
  | .rxHold => none
  | .rxBody _ body => some (.rx .awaitingBody (BitVec.ofNat 8 (frameLength body)))
  | .txHeader _ _ _ => some .header
  | .txRead _ _ => some .host
  | .txWrite _ none => none
  | .txWrite _ (some _) => some .host
  | .txWritestr _ _ _ _ _ _ => none
  | .txWritestrRom _ _ _ _ _ _ => none
  | .padsplit _ _ _ _ => none
  | .writevar => some .command
  | .readvar => some .command
  | .frame cmd body => if inboundRow cmd body = .frame cmd body then some .inbound else none
  | .frameAddressed _ _ => none
  | .frameReadRequest _ _ => some .outbound
  | .frameWriteRequest _ _ => some .outbound
  | .frameReadvarReport _ _ _ => some .inbound
  | .frameWriteAck => some .inbound

/-- A word on the wire, standing alone: one byte is a command byte (30/R52); more bytes are one whole
frame from the display (30/R50). -/
def decodeWord (c : Config) : List Byte → Except DecodeError Instr
  | [] => .error .noByte
  | [b] =>
    match decode c .command [b] with
    | .error e => .error e
    | .ok (i, _) => .ok i
  | bs =>
    match decode c .inbound bs with
    | .error e => .error e
    | .ok (i, []) => .ok i
    | .ok (_, _) => .error .trailingBytes

/-- Byte `k` of a word whose first byte is its least significant. -/
def tableByte (w k : Nat) : Byte := BitVec.ofNat 8 (w / 2 ^ (8 * k))

/-- The bytes of a word of `nbits` bits in the order they stand on the wire; a frame is filled up with
zero bytes to the length its third byte gives. -/
def tableBytes (nbits w : Nat) : List Byte :=
  let word := w % 2 ^ nbits
  let given := (nbits + 7) / 8
  let count := if given ≤ 1 then given else max given ((tableByte word 2).toNat + 3)
  (List.range count).map (tableByte word)

/-- The instruction the decoder reads from an opcode-table word, under the built configuration. -/
def decodeTableWord (nbits w : Nat) : Option Instr :=
  match decodeWord Config.built (tableBytes nbits w) with
  | .ok i => some i
  | .error _ => none

end Sys2Proof
end

