-- ==== Sys2Proof/Machine/Memory.lean ====
section
/-!
DEFINITION. The store behind the scratch buffer `buf` (10/R13): (index, byte) cells with strictly
rising indices. An index with no cell has not been written since reset and holds no value a rule may
read (10/R22), so every cell is different from what an unlisted index reads as.
-/

namespace Sys2Proof.Machine

/-- The written bytes of `buf`, by index. -/
abbrev Memory := List Host.Cell

/-- The canonical form: indices strictly rising. Equal contents are then equal lists. -/
abbrev Memory.wf (m : Memory) : Prop := m.Pairwise fun x y => x.1 < y.1

/-- What an index with no cell reads as: nothing (10/R22). -/
def Memory.unlisted : Option Byte := none

/-- The byte at an index, if one has been written there. -/
def Memory.read (i : Nat) : Memory → Option Byte
  | [] => Memory.unlisted
  | (j, b) :: t => if i = j then some b else Memory.read i t

/-- Write one byte. -/
def Memory.write (i : Nat) (b : Byte) : Memory → Memory
  | [] => [(i, b)]
  | (j, c) :: t =>
    if i < j then (i, b) :: (j, c) :: t
    else if i = j then (i, b) :: t
    else (j, c) :: Memory.write i b t

end Sys2Proof.Machine
end

