-- ==== Sys2Proof/Machine/State.lean ====
section
/-!
DEFINITION. The state of the machine: the block's registers (10/R10), the environment the block
observes and drives (10/R19, R20), the dispatcher behind the hand-off port (49), the parameters, and
what the host and the environment do next. Plain data.
-/

namespace Sys2Proof.Machine

/-- 40/R70 (corner case f): where a SERVICE invocation stands. -/
inductive ServicePhase where
  /-- No invocation is in progress. -/
  | outside
  /-- SERVICE has been invoked; the overrun check is next. -/
  | entry
  /-- The byte loop. -/
  | scan
  /-- The byte loop, right after an RX.BODY hand-off: the dispatcher's code may run (70/R162). -/
  | handOff
  deriving DecidableEq, Repr

/-- The transport's overrun indicator (10/R19): a fresh draw at each evaluation, or, where a claim
restricts the environment by a named assumption, held at a level. -/
inductive OverrunLine where
  | free
  | held (level : Bool)
  deriving DecidableEq, Repr

/-- The environment's reaction to `flush()` (20/R35): a draw, or, under a named assumption, one of the
reactions of 95 section 0. -/
inductive FlushReaction where
  | free
  | fixed (dropRx clearOvr : Bool)
  deriving DecidableEq, Repr

/-- 20/R39: one hand-off, the body by value. -/
structure HandOff where
  cmd : Byte
  body : List Byte
  deriving DecidableEq, Repr

/-- 49/R116 to R118: one handler invocation: the matched row and the payload, if any. -/
structure HandlerCall where
  row : VpRow
  payload : Option (List Byte)
  deriving DecidableEq, Repr

/-- The dispatcher (environment, 49): how many hand-offs of `dlog` it has taken, the cached device
versions (49/R123), and the handler invocations it has made. -/
structure Dispatcher where
  seen : Nat
  gui : Byte
  os : Byte
  calls : List HandlerCall
  deriving DecidableEq, Repr

/-- What the host or the environment can do between two steps of the block (10/R16, R19, R20). -/
inductive Action where
  /-- The host issues an operation as a structured value (30/R66). -/
  | op (i : Instr)
  /-- A word of the table on the wire, given by its bytes: decoded, then run. -/
  | word (bytes : List Byte)
  /-- The wire side appends bytes to the receive FIFO. -/
  | push (bytes : List Byte)
  /-- The environment sets what `rx_overrun()` answers from now on. -/
  | overrun (line : OverrunLine)
  /-- The environment sets its reaction to `flush()` from now on. -/
  | onFlush (r : FlushReaction)
  /-- Engine initialisation (70/R150). -/
  | reset
  /-- The dispatcher takes the next hand-off of the dispatch log. -/
  | dispatcher
  /-- The block takes its next step of the SERVICE invocation in progress. -/
  | blockStep
  deriving DecidableEq, Repr

/-- An action in waiting. `within`: it happens as soon as it is first in line, also between two steps of
one SERVICE invocation; otherwise it waits for the invocation to end. -/
structure Pending where
  within : Bool
  act : Action
  deriving DecidableEq, Repr

/-- The machine stops with a fault. The block has none (60/R130); these two guard the scratch buffer and
are raised in no state that meets the invariant of Safety.lean. -/
inductive Fault where
  /-- Raised by the `buf` accessors for an index at or above MAX_BUFFER, which has no meaning (20/R37).
  Safe: the model stops where the spec gives nothing. -/
  | bufOutOfBounds (index : Nat)
  /-- Raised by a read of a `buf` byte not written since reset (10/R22). Safe: no rule reads one. -/
  | bufUnwritten (index : Nat)
  deriving DecidableEq, Repr

/-- No meaning is given to the call. All are safe: the model stops where the spec gives no effect. -/
inductive Refusal where
  /-- Raised by exec's arm of an instruction with no meaning yet. Safe. -/
  | notModelled (mnemonic : String)
  /-- Raised by SERVICE while a SERVICE is in progress (70/R161). Safe. -/
  | reentrantService
  /-- Raised by a TX operation or an outgoing frame while a SERVICE is in progress and not in a hand-off
  (20/R46, 93/U6). Safe. -/
  | concurrentOperation
  /-- Raised by TX.HEADER issued on its own (41/R91). Safe. -/
  | standaloneHeader
  /-- Raised by a TX operation or outgoing frame with more than 252 bytes after the address (41/R98). Safe. -/
  | sizeContract
  /-- Raised by `rx_read` on an empty transport (20/R33); no rule of the block reaches it. Safe. -/
  | rxReadEmpty
  /-- Raised by an RX operation issued where the decode table does not select it (30/R59, 40/R70). Safe. -/
  | rxNotSelected
  /-- Raised by `fetch` of a byte an absent or shorter source does not have (20/R38); no rule of the block
  reaches it. Safe. -/
  | fetchOutOfRange
  /-- Raised by PADSPLIT for `len ≥ width`, where it is not defined (41/R94). Safe. -/
  | padsplitUndefined
  /-- Raised by an inbound frame whose length does not fit the one-byte length field (30/R50). Safe. -/
  | frameTooLong
  /-- Raised for a pending word that decodes to no row. Safe. -/
  | undecodable (reason : DecodeError)
  deriving DecidableEq, Repr

end Sys2Proof.Machine

namespace Sys2Proof.Machine

/-- The machine's state. -/
structure State where
  /-- The parameters (10/R16): no step writes them. -/
  cfg : Config
  /-- 10/R11. -/
  st : RxState
  /-- 10/R12. -/
  explen : Byte
  /-- 10/R13: the bytes of the scratch buffer written since reset. -/
  buf : Memory
  /-- 10/R14. -/
  init : Bool
  /-- 40/R70: where the SERVICE invocation in progress stands, if one is. -/
  phase : ServicePhase
  /-- 10/R19: the transport's receive FIFO, oldest byte first. -/
  rxq : List Byte
  /-- 10/R19: the overrun indicator. -/
  ovr : OverrunLine
  /-- 20/R35: the reaction to the next `flush()`. -/
  onFlush : FlushReaction
  /-- 10/R20: the bytes passed to `tx_write` since reset, in call order. -/
  txq : List Byte
  /-- 10/R20: the hand-offs since reset, in order. -/
  dlog : List HandOff
  /-- 10/R20: the number of `flush()` events since reset. -/
  flushes : Nat
  /-- The dispatcher (environment). -/
  disp : Dispatcher
  /-- The model's own: the result of the last stand-alone PADSPLIT. -/
  padOut : Option (Nat × Nat)
  /-- The model's own: how many free values have been drawn. -/
  draws : Nat
  /-- What the host and the environment do next, first in line first. -/
  pending : List Pending
  deriving DecidableEq, Repr

def State.setSt (s : State) (v : RxState) : State := { s with st := v }
def State.setExplen (s : State) (v : Byte) : State := { s with explen := v }
def State.setBuf (s : State) (v : Memory) : State := { s with buf := v }
def State.setInit (s : State) (v : Bool) : State := { s with init := v }
def State.setPhase (s : State) (v : ServicePhase) : State := { s with phase := v }
def State.setRxq (s : State) (v : List Byte) : State := { s with rxq := v }
def State.setOvr (s : State) (v : OverrunLine) : State := { s with ovr := v }
def State.setOnFlush (s : State) (v : FlushReaction) : State := { s with onFlush := v }
def State.setTxq (s : State) (v : List Byte) : State := { s with txq := v }
def State.setDlog (s : State) (v : List HandOff) : State := { s with dlog := v }
def State.setFlushes (s : State) (v : Nat) : State := { s with flushes := v }
def State.setDisp (s : State) (v : Dispatcher) : State := { s with disp := v }
def State.setPadOut (s : State) (v : Option (Nat × Nat)) : State := { s with padOut := v }
def State.setDraws (s : State) (v : Nat) : State := { s with draws := v }
def State.setPending (s : State) (v : List Pending) : State := { s with pending := v }

/-- Right after engine initialisation (10/R22, 70/R150, R151). `explen` is unspecified there and stays a
free value; `buf` is unspecified there and has no byte a rule may read. -/
def State.reset : State where
  cfg := Config.built
  st := .idle
  explen := Config.freeExplen 0
  buf := []
  init := false
  phase := .outside
  rxq := []
  ovr := .free
  onFlush := .free
  txq := []
  dlog := []
  flushes := 0
  disp := { seen := 0, gui := Config.freeGuiVersion, os := Config.freeOsVersion, calls := [] }
  padOut := none
  draws := 0
  pending := []

end Sys2Proof.Machine
end

