-- ==== Sys2Proof/Machine/Flags.lean ====
section
/-!
DEFINITION. The two status flags (10/R18): the block's own `init` and, observed but not owned, the
transport's overrun indicator; and which phase of a SERVICE invocation admits what.
-/

namespace Sys2Proof.Machine

/-- 40/R78: a complete datagram's command byte has been read. -/
def State.markInitialized (s : State) : State := s.setInit true

/-- 10/R14: what the host reads; reading changes nothing. -/
def State.hostReadInit (s : State) : Bool := s.init

/-- 20/R34: what `rx_overrun()` answers now: constantly false where the indicator is not supported
(00/R7), else a draw of the environment or the level the environment holds. -/
def State.rxOverrun (s : State) : Bool :=
  s.cfg.overrunSupported &&
    match s.ovr with
    | .free => Config.freeOverrun s.draws
    | .held level => level

/-- The draw of the environment has been used. -/
def State.advanceDraw (s : State) : State := s.setDraws (s.draws + 1)

/-- 40/R71: the condition of RX.OVERRUN. -/
def State.overrunEnabled (s : State) : Bool := s.rxOverrun && s.rxq.isEmpty

/-- 70/R161: a SERVICE invocation is in progress. -/
def State.inService (s : State) : Bool := decide (s.phase ≠ .outside)

/-- 40/R70: the invocation is in its byte loop. -/
def State.scanning (s : State) : Bool := decide (s.phase = .scan ∨ s.phase = .handOff)

/-- 20/R46, 70/R162: a TX operation may be issued: no operation is in progress, or the one in progress is
in a hand-off. -/
def State.txAllowed (s : State) : Bool := decide (s.phase = .outside ∨ s.phase = .handOff)

end Sys2Proof.Machine
end

