-- ==== Sys2Proof/Machine/Ops.lean ====
section
/-!
DEFINITION. The port primitives of spec/20 and the shared operations over the registers: the
transport (R32 to R36), the scratch buffer (R37), the hand-off (R39), the abort of a frame (60/R139),
the SERVICE invocation's begin and end (40/R70), and engine initialisation (70/R150).
-/

namespace Sys2Proof.Machine

/-- Why an operation stops. -/
inductive Stop where
  | fault (f : Fault)
  | refusal (r : Refusal)
  deriving DecidableEq, Repr

/-- The outcome of an operation. -/
abbrev Result := Host.Outcome State Fault Refusal

/-- An operation's answer as an outcome. -/
def Result.ofExcept : Except Stop State → Result
  | .ok s => .next s
  | .error (.fault f) => .fault f
  | .error (.refusal r) => .refused r

/-- 20/R32. -/
def State.rxAvail (s : State) : Nat := s.rxq.length

/-- 20/R33: remove and return the oldest byte; refused on an empty transport. -/
def State.rxRead (s : State) : Except Stop (Byte × State) :=
  match s.rxq with
  | [] => .error (.refusal .rxReadEmpty)
  | b :: t => .ok (b, s.setRxq t)

/-- 10/R19: the wire side appends bytes at the end of the FIFO. -/
def State.wireAppend (s : State) (bytes : List Byte) : State := s.setRxq (s.rxq ++ bytes)

/-- 20/R35: the event is logged; the environment chooses the new `rxq`, a suffix of the old one, and the
overrun indicator. -/
def State.flush (s : State) : State :=
  let logged := s.setFlushes (s.flushes + 1)
  match s.onFlush with
  | .free => ((logged.setRxq (s.rxq.drop (Config.freeFlushDrop s.draws))).setOvr .free).advanceDraw
  | .fixed dropRx clearOvr =>
    let dropped := if dropRx then logged.setRxq [] else logged
    if clearOvr then dropped.setOvr (.held false) else dropped

/-- 20/R36: append one byte to the transmit stream; never fails. -/
def State.txWrite (s : State) (b : Byte) : State := s.setTxq (s.txq ++ [b])

/-- 20/R37. -/
def State.bufWrite (s : State) (i : Nat) (b : Byte) : Except Stop State :=
  if i < s.cfg.maxBuffer then .ok (s.setBuf (s.buf.write i b))
  else .error (.fault (.bufOutOfBounds i))

/-- 20/R37, 10/R22. -/
def State.bufRead (s : State) (i : Nat) : Except Stop Byte :=
  if i < s.cfg.maxBuffer then
    match s.buf.read i with
    | some b => .ok b
    | none => .error (.fault (.bufUnwritten i))
  else .error (.fault (.bufOutOfBounds i))

/-- 40/R76, the loop: `buf[i] <- rx_read()` for `count` indices from `i` on, rising. -/
def State.receiveBody (i : Nat) : Nat → State → Except Stop State
  | 0, s => .ok s
  | count + 1, s =>
    match s.rxRead with
    | .error e => .error e
    | .ok (b, s1) =>
      match s1.bufWrite i b with
      | .error e => .error e
      | .ok s2 => State.receiveBody (i + 1) count s2

/-- 40/R76: the bytes `buf[i], ..., buf[i+count-1]`, a copy by value (20/R39). -/
def State.bodyBytes (s : State) (i : Nat) : Nat → Except Stop (List Byte)
  | 0 => .ok []
  | count + 1 =>
    match s.bufRead i with
    | .error e => .error e
    | .ok b =>
      match s.bodyBytes (i + 1) count with
      | .error e => .error e
      | .ok t => .ok (b :: t)

/-- 20/R39: the hand-off; the consumer always accepts. -/
def State.dispatch (s : State) (cmd : Byte) (body : List Byte) : State :=
  s.setDlog (s.dlog ++ [⟨cmd, body⟩])

/-- 60/R139: the abort of a frame, the block's only "trap entry": `st <- Idle`, nothing saved, nothing
else changed. There is no return operation (60/R140). -/
def State.abortFrame (s : State) : State := s.setSt .idle

/-- 40/R70: SERVICE is invoked. -/
def State.beginService (s : State) : State := s.setPhase .entry

/-- 40/R70: the overrun check has been made; the byte loop begins. -/
def State.passOverrunCheck (s : State) : State := s.advanceDraw.setPhase .scan

/-- 40/R70: SERVICE returns. -/
def State.endService (s : State) : State := s.setPhase .outside

/-- 70/R150, R151, 10/R22: engine initialisation. `explen` and `buf` become unspecified; the logs start
empty "since reset"; the transport keeps its bytes (70/R153). -/
def State.engineReset (s : State) : State :=
  { s with
    st := .idle
    explen := Config.freeExplen s.draws
    buf := []
    init := false
    phase := .outside
    txq := []
    dlog := []
    flushes := 0
    disp := { s.disp with seen := 0 }
    padOut := none
    draws := s.draws + 1 }

end Sys2Proof.Machine
end

