-- ==== Sys2Proof/Machine/Rx.lean ====
section
/-!
DEFINITION. The RX framer's operations, 40/R70 to R78. Each has its enabling condition; issued where
the decode table (30/R59) does not select it, it is refused.
-/

namespace Sys2Proof.Machine

/-- 40/R70: SERVICE begins an invocation: the overrun check is its next step, then the byte loop
(see `State.blockStep`). A re-entrant call is refused (70/R161). -/
def execService (s : State) : Result :=
  if s.inService then .refused .reentrantService else .next s.beginService

/-- 40/R71: `st <- Idle; flush()`, at the entry of a SERVICE whose overrun check holds. -/
def execRxOverrun (s : State) : Result :=
  if s.phase = .entry ∧ s.overrunEnabled = true then
    .next (s.abortFrame.advanceDraw.flush.setPhase .scan)
  else .refused .rxNotSelected

/-- The operations that consume one byte (40/R72 to R74): enabled in state `at_` when a byte is there; the
byte must be in the arm's class; `effect` is what the arm then does. -/
def rxByteArm (at_ : RxState) (inClass : Byte → Bool) (effect : Byte → State → State) (s : State) : Result :=
  if s.scanning = true ∧ s.st = at_ ∧ 1 ≤ s.rxAvail then
    match s.rxRead with
    | .error e => Result.ofExcept (.error e)
    | .ok (b, read) =>
      if inClass b then .next ((effect b read).setPhase .scan) else .refused .rxNotSelected
  else .refused .rxNotSelected

/-- 40/R72: the byte is `H1`. -/
def execRxIdleH1 (s : State) : Result :=
  rxByteArm .idle (fun b => decide (b = s.cfg.h1)) (fun _ t => t.setSt .header1Seen) s

/-- 40/R72: any other byte is dropped (60/R132). -/
def execRxIdleDrop (b : Byte) (s : State) : Result :=
  rxByteArm .idle (fun x => decide (x = b ∧ x ≠ s.cfg.h1)) (fun _ t => t.abortFrame) s

/-- 40/R73: the byte is `H2`. -/
def execRxH1SeenH2 (s : State) : Result :=
  rxByteArm .header1Seen (fun b => decide (b = s.cfg.h2)) (fun _ t => t.setSt .header2Seen) s

/-- 40/R73: any other byte, `H1` included, is dropped and not scanned again (60/R132). -/
def execRxH1SeenMiss (b : Byte) (s : State) : Result :=
  rxByteArm .header1Seen (fun x => decide (x = b ∧ x ≠ s.cfg.h2)) (fun _ t => t.abortFrame) s

/-- 40/R74: a legal length is stored. -/
def execRxH2SeenAccept (len : Byte) (s : State) : Result :=
  rxByteArm .header2Seen (fun x => decide (x = len) && legalLength s.cfg x)
    (fun x t => (t.setExplen x).setSt .awaitingBody) s

/-- 40/R74: a malformed length aborts the frame (60/R133). -/
def execRxH2SeenReject (len : Byte) (s : State) : Result :=
  rxByteArm .header2Seen (fun x => decide (x = len) && !legalLength s.cfg x) (fun _ t => t.abortFrame) s

/-- 40/R75: consume nothing and return. -/
def execRxHold (s : State) : Result :=
  if s.scanning = true ∧ s.st = .awaitingBody ∧ 1 ≤ s.rxAvail ∧ s.rxAvail < s.explen.toNat then
    .next s.endService
  else .refused .rxNotSelected

/-- 40/R76, the pseudocode: read the command, set `init`, fill `buf`, hand off a copy, return to Idle. -/
def receiveFrame (s : State) : Except Stop State :=
  match s.rxRead with
  | .error e => .error e
  | .ok (cmd, s1) =>
    match State.receiveBody 0 (s.explen.toNat - 1) s1.markInitialized with
    | .error e => .error e
    | .ok s2 =>
      match s2.bodyBytes 0 (s.explen.toNat - 1) with
      | .error e => .error e
      | .ok body => .ok ((s2.dispatch cmd body).setSt .idle)

/-- 40/R76: enabled once `explen` bytes are there; the operands are the bytes it consumes. -/
def execRxBody (cmd : Byte) (body : List Byte) (s : State) : Result :=
  if s.scanning = true ∧ s.st = .awaitingBody ∧ s.explen.toNat ≤ s.rxAvail ∧
      s.rxq.take s.explen.toNat = cmd :: body then
    match receiveFrame s with
    | .error e => Result.ofExcept (.error e)
    | .ok t => .next (t.setPhase .handOff)
  else .refused .rxNotSelected

end Sys2Proof.Machine
end

