-- ==== Sys2Proof/Machine/Operands.lean ====
section
/-!
DEFINITION. The operand forms of the TX operations: a payload or text source (20/R38), its bytes sent
one by one, and the padding bytes of a string field (41/R95).
-/

namespace Sys2Proof.Machine

/-- 20/R38: a present source: a finite byte sequence of known length in a space. -/
structure Source where
  space : Space
  bytes : List Byte
  deriving DecidableEq, Repr

/-- 20/R38: byte `i` of a source, the same whichever space it lives in. An absent source and an index
past the end have no byte. -/
def fetch (src : Option Source) (i : Nat) : Option Byte :=
  match src with
  | none => none
  | some ⟨.ram, bytes⟩ => bytes[i]?
  | some ⟨.rom, bytes⟩ => bytes[i]?

/-- `for k from i to i + count - 1 do tx_write(fetch(src, k))` (41/R93, R95). -/
def sendFrom (src : Source) (i : Nat) : Nat → State → Except Stop State
  | 0, s => .ok s
  | count + 1, s =>
    match fetch (some src) i with
    | none => .error (.refusal .fetchOutOfRange)
    | some b => sendFrom src (i + 1) count (s.txWrite b)

/-- `repeat count times: tx_write(pad)` (41/R95). -/
def sendPadding (pad : Byte) : Nat → State → State
  | 0, s => s
  | count + 1, s => sendPadding pad count (s.txWrite pad)

/-- 41/R91: the six header bytes; the caller keeps `size ≤ 252`. -/
def sendHeader (addr : Addr) (cmd : WireCommand) (size : Nat) (s : State) : State :=
  (((((s.txWrite s.cfg.h1).txWrite s.cfg.h2).txWrite (BitVec.ofNat 8 (size + 3))).txWrite cmd.code).txWrite
    (hi8 addr)).txWrite (lo8 addr)

/-- 41/R95 after the presence test, for a text in either space. -/
def sendString (addr : Addr) (src : Source) (width : Nat) (alignLeft alignRight padWithSpace : Bool)
    (s : State) : Except Stop State :=
  if Config.maxPayload < width then .error (.refusal .sizeContract)
  else
    let headed := sendHeader addr .writevar width s
    if width ≤ src.bytes.length then sendFrom src 0 width headed
    else
      let split := padSplit src.bytes.length width alignLeft alignRight
      let pad := padByte padWithSpace
      match sendFrom src 0 src.bytes.length (sendPadding pad split.1 headed) with
      | .error e => .error e
      | .ok sent => .ok (sendPadding pad split.2 sent)

/-- 41/R93 after the presence test. -/
def sendData (addr : Addr) (src : Source) (s : State) : Except Stop State :=
  if Config.maxPayload < src.bytes.length then .error (.refusal .sizeContract)
  else sendFrom src 0 src.bytes.length (sendHeader addr .writevar src.bytes.length s)

end Sys2Proof.Machine
end

