-- ==== Sys2Proof/Machine/Tx.lean ====
section
/-!
DEFINITION. The TX encoder's operations, 41/R90 to R97. Each is one atomic step that appends bytes to
the transmit stream and touches nothing else of the block; none is admitted while another operation
is in progress, except from a hand-off (20/R46, 70/R162).
-/

namespace Sys2Proof.Machine

/-- A TX operation as the host issues it: refused while another operation is in progress. -/
def txOperation (send : State → Except Stop State) (s : State) : Result :=
  if s.txAllowed then Result.ofExcept (send s) else .refused .concurrentOperation

/-- 41/R91: TX.HEADER is admitted only as the first part of the four operations below (`sendHeader`); a
stand-alone one is refused. -/
def execTxHeader (_addr : Addr) (_cmd : WireCommand) (_size : Nat) (_s : State) : Result :=
  .refused .standaloneHeader

/-- 41/R92. -/
def execTxRead (addr : Addr) (wordCount : Byte) (s : State) : Result :=
  txOperation (fun s => .ok ((sendHeader addr .readvar 1 s).txWrite wordCount)) s

/-- 41/R93; an absent payload is a silent no-op (R97), tested first (60/R138). -/
def execTxWrite (addr : Addr) (bytes : Option (List Byte)) (s : State) : Result :=
  txOperation
    (fun s =>
      match bytes with
      | none => .ok s
      | some d => sendData addr ⟨.ram, d⟩ s) s

/-- 41/R95; an absent text is a silent no-op (R97), tested first (60/R138). -/
def execTxWritestr (addr : Addr) (text : Option (List Byte)) (width : Nat)
    (alignLeft alignRight padWithSpace : Bool) (s : State) : Result :=
  txOperation
    (fun s =>
      match text with
      | none => .ok s
      | some d => sendString addr ⟨.ram, d⟩ width alignLeft alignRight padWithSpace s) s

/-- 41/R96: the same with the text in the ROM space. -/
def execTxWritestrRom (addr : Addr) (text : Option (List Byte)) (width : Nat)
    (alignLeft alignRight padWithSpace : Bool) (s : State) : Result :=
  txOperation
    (fun s =>
      match text with
      | none => .ok s
      | some d => sendString addr ⟨.rom, d⟩ width alignLeft alignRight padWithSpace s) s

/-- 41/R94: the helper on its own: its result is recorded for its caller, nothing else changes. It is
defined for `len < width`. -/
def execPadsplit (len width : Nat) (alignLeft alignRight : Bool) (s : State) : Result :=
  if len < width then .next (s.setPadOut (some (padSplit len width alignLeft alignRight)))
  else .refused .padsplitUndefined

end Sys2Proof.Machine
end

