-- ==== Sys2Proof/Machine/Wire.lean ====
section
/-!
DEFINITION. The rows of the table that are bytes on the wire (30/R50 to R57). A command byte or a frame
from the display is the wire side appending it to the receive FIFO (10/R19); a frame to the display is
its bytes going out on the transmit stream, as the TX encoder sends them (20/R36).
-/

namespace Sys2Proof.Machine

/-- A datagram arrives (30/R50); its length must fit the one-byte length field. -/
def receiveDatagram (cmd : Byte) (body : List Byte) (s : State) : Result :=
  if frameLength body ≤ 255 then .next (s.wireAppend (frameBytes s.cfg cmd body))
  else .refused .frameTooLong

/-- An addressed frame goes out (30/R53), under the size contract (41/R98). -/
def sendDatagram (addr : Addr) (p : AddressedPayload) (s : State) : Result :=
  txOperation
    (fun s =>
      if Config.maxPayload < p.bytes.length then .error (.refusal .sizeContract)
      else .ok (s.setTxq (s.txq ++ addressedBytes s.cfg addr p))) s

/-- 30/R52: the command byte 0x82 arrives. -/
def execWritevar (s : State) : Result := .next (s.wireAppend [WireCommand.writevar.code])

/-- 30/R52: the command byte 0x83 arrives. -/
def execReadvar (s : State) : Result := .next (s.wireAppend [WireCommand.readvar.code])

/-- 30/R50. -/
def execFrame (cmd : Byte) (body : List Byte) (s : State) : Result := receiveDatagram cmd body s

/-- 30/R53. -/
def execFrameAddressed (addr : Addr) (p : AddressedPayload) (s : State) : Result := sendDatagram addr p s

/-- 30/R54. -/
def execFrameReadRequest (addr : Addr) (wordCount : Byte) (s : State) : Result :=
  sendDatagram addr (.wordCount wordCount) s

/-- 30/R55. -/
def execFrameWriteRequest (addr : Addr) (data : List Byte) (s : State) : Result :=
  sendDatagram addr (.data data) s

/-- 30/R56: a reply or an auto-upload arrives (49/R125). -/
def execFrameReadvarReport (addr : Addr) (wordLen : Byte) (data : List Byte) (s : State) : Result :=
  receiveDatagram WireCommand.readvar.code (reportBody addr wordLen data) s

/-- 30/R57: a write acknowledgment arrives. -/
def execFrameWriteAck (s : State) : Result := receiveDatagram WireCommand.writevar.code ackBody s

end Sys2Proof.Machine
end

