-- ==== Sys2Proof/Machine/Dispatch.lean ====
section
/-!
DEFINITION. One arm for each constructor of Instr.
-/

namespace Sys2Proof.Machine

def exec (i : Instr) (s : State) : Host.Outcome State Fault Refusal :=
  match i with
  | .service => Sys2Proof.Machine.execService s
  | .rxOverrun => Sys2Proof.Machine.execRxOverrun s
  | .rxIdleH1 => Sys2Proof.Machine.execRxIdleH1 s
  | .rxIdleDrop b => Sys2Proof.Machine.execRxIdleDrop b s
  | .rxH1SeenH2 => Sys2Proof.Machine.execRxH1SeenH2 s
  | .rxH1SeenMiss b => Sys2Proof.Machine.execRxH1SeenMiss b s
  | .rxH2SeenAccept len => Sys2Proof.Machine.execRxH2SeenAccept len s
  | .rxH2SeenReject len => Sys2Proof.Machine.execRxH2SeenReject len s
  | .rxHold => Sys2Proof.Machine.execRxHold s
  | .rxBody cmd body => Sys2Proof.Machine.execRxBody cmd body s
  | .txHeader addr cmd size => Sys2Proof.Machine.execTxHeader addr cmd size s
  | .txRead addr wordCount => Sys2Proof.Machine.execTxRead addr wordCount s
  | .txWrite addr bytes => Sys2Proof.Machine.execTxWrite addr bytes s
  | .txWritestr addr text width aL aR sp => Sys2Proof.Machine.execTxWritestr addr text width aL aR sp s
  | .txWritestrRom addr text width aL aR sp => Sys2Proof.Machine.execTxWritestrRom addr text width aL aR sp s
  | .padsplit len width aL aR => Sys2Proof.Machine.execPadsplit len width aL aR s
  | .writevar => Sys2Proof.Machine.execWritevar s
  | .readvar => Sys2Proof.Machine.execReadvar s
  | .frame cmd body => Sys2Proof.Machine.execFrame cmd body s
  | .frameAddressed addr p => Sys2Proof.Machine.execFrameAddressed addr p s
  | .frameReadRequest addr wordCount => Sys2Proof.Machine.execFrameReadRequest addr wordCount s
  | .frameWriteRequest addr data => Sys2Proof.Machine.execFrameWriteRequest addr data s
  | .frameReadvarReport addr wordLen data => Sys2Proof.Machine.execFrameReadvarReport addr wordLen data s
  | .frameWriteAck => Sys2Proof.Machine.execFrameWriteAck s

end Sys2Proof.Machine
end

