-- ==== Sys2Proof/Machine/Dispatcher.lean ====
section
/-!
DEFINITION. The dispatcher, the VP table lookup and the version cache: ENVIRONMENT, not the block
(49/R110 to R123). It takes the hand-offs of the dispatch log one at a time and changes nothing but
its own record. No operation of the block reads any of this.
-/

namespace Sys2Proof.Machine

/-- 49/R122: scan from the first row; stop at the zero-address sentinel or at the first match. -/
def vpLookup (addr : Addr) : List VpRow → Option VpRow
  | [] => none
  | r :: t => if r.addr = 0 then none else if r.addr = addr then some r else vpLookup addr t

/-- 49/R117: the bytes before two consecutive terminator bytes FF FF, or all of them. -/
def untilTerminator : List Byte → List Byte
  | [] => []
  | a :: t => if a = 0xFF#8 ∧ t.head? = some 0xFF#8 then [] else a :: untilTerminator t

/-- 49/R117: a zeroed buffer of `size` bytes with the bytes of `body[3..]` copied in. DESIGN CHOICE (log entry
29): the terminator is looked for in the whole of `body[3..]`, so a pair FF FF whose first byte is the last that
fits and whose second lies beyond `size` ends the text before that first FF, and 00 stands there. -/
def stringPayload (size : Nat) (body : List Byte) : List Byte :=
  let copied := (untilTerminator (body.drop 3)).take size
  copied ++ List.replicate (size - copied.length) 0x00#8

/-- What the dispatcher makes of one hand-off. -/
inductive Dispatched where
  /-- 49/R112: a write acknowledgment, discarded. -/
  | acknowledged
  /-- 49/R119: any other command that is not a READVAR: stop silently. -/
  | otherCommand
  /-- 49/R114: the version reply. -/
  | version (gui os : Byte)
  /-- 49/R115: no row, or no handler: stop silently. -/
  | unhandled
  /-- 49/R118: the declared length is not the row's size: stop silently. -/
  | sizeMismatch
  /-- 49/R116 to R118: the handler is invoked. -/
  | handled (call : HandlerCall)
  deriving DecidableEq, Repr

/-- The dispatcher's reading of body index `i`; the source does not say what it finds past the end of a
short body (91/N24), so `past` is free. -/
def bodyByte (past : Nat → Byte) (body : List Byte) (i : Nat) : Byte := body[i]?.getD (past i)

/-- 49/R115 to R118: the lookup and the handler's payload. -/
def dispatchVp (past : Nat → Byte) (table : List VpRow) (addr : Addr) (declaredLen : Nat) (body : List Byte) :
    Dispatched :=
  match vpLookup addr table with
  | none => .unhandled
  | some row =>
    if row.handler = none then .unhandled
    else if row.size = 0 then .handled ⟨row, none⟩
    else if row.rxString then .handled ⟨row, some (stringPayload row.size.toNat body)⟩
    else if declaredLen = row.size.toNat then
      .handled ⟨row, some ((List.range row.size.toNat).map fun k => bodyByte past body (3 + k))⟩
    else .sizeMismatch

/-- 49/R112 to R119: one hand-off. -/
def dispatchOne (c : Config) (past : Nat → Byte) (h : HandOff) : Dispatched :=
  if h.cmd = WireCommand.writevar.code ∧ h.body.take 2 = ackBody then .acknowledged
  else if h.cmd = WireCommand.readvar.code then
    let addr := addrOf (bodyByte past h.body 0) (bodyByte past h.body 1)
    let declaredLen := (bodyByte past h.body 2).toNat * 2
    if addr = c.versionAddr ∧ declaredLen = 2 then
      .version (bodyByte past h.body 3) (bodyByte past h.body 4)
    else dispatchVp past c.vpTable addr declaredLen h.body
  else .otherCommand

/-- What a dispatched hand-off leaves in the dispatcher's record. DESIGN CHOICE (log entry 28): every version
reply is cached, a later one over an earlier one, as 49/R114 words it with no condition; 49/R123 says of the same
values that they are "set once". -/
def Dispatcher.record (d : Dispatcher) : Dispatched → Dispatcher
  | .acknowledged => { d with seen := d.seen + 1 }
  | .otherCommand => { d with seen := d.seen + 1 }
  | .version gui os => { d with seen := d.seen + 1, gui := gui, os := os }
  | .unhandled => { d with seen := d.seen + 1 }
  | .sizeMismatch => { d with seen := d.seen + 1 }
  | .handled call => { d with seen := d.seen + 1, calls := d.calls ++ [call] }

/-- The dispatcher takes the next hand-off, if there is one. DESIGN CHOICE (log entry 27): 49/R110 has it called
on datagram completion; here it is an action of its own in `State.pending`, which may come right after the
hand-off, later, or never. -/
def State.dispatcherStep (s : State) : State :=
  match s.dlog[s.disp.seen]? with
  | none => s
  | some h => (s.setDisp (s.disp.record (dispatchOne s.cfg (Config.freeBodyByte s.draws) h))).advanceDraw

end Sys2Proof.Machine
end

