-- ==== Sys2Proof/Machine/Schedule.lean ====
section
/-!
DEFINITION. Who moves next. While a SERVICE invocation is in progress the block takes its steps (40/R70);
between invocations, and for actions marked `within` also between two steps of one, the host and the
environment act in the order of `pending`. With nothing pending the outer control loop invokes SERVICE
(00/R9, 70/R171).
-/

namespace Sys2Proof.Machine

/-- What the next step is. -/
inductive Fetched where
  /-- An operation runs in this state. -/
  | run (i : Instr) (s : State)
  /-- The environment has acted, or the invocation has moved on without an operation. -/
  | become (s : State)
  /-- The pending word decodes to no row. -/
  | stop (r : Refusal)
  deriving DecidableEq, Repr

/-- 40/R70: the next step of the SERVICE invocation in progress: the overrun check, then the operation the
decode table selects, and the return when no byte is there. -/
def State.blockStep (s : State) : Fetched :=
  match s.phase with
  | .outside => .become s
  | .entry => if s.overrunEnabled then .run .rxOverrun s else .become s.passOverrunCheck
  | .scan | .handOff =>
    match decode s.cfg (.rx s.st s.explen) s.rxq with
    | .ok (i, _) => .run i s
    | .error _ => .become s.endService

/-- One action of the host or the environment. -/
def State.perform (s : State) : Action → Fetched
  | .op i => .run i s
  | .word bytes =>
    match decodeWord s.cfg bytes with
    | .ok i => .run i s
    | .error e => .stop (.undecodable e)
  | .push bytes => .become (s.wireAppend bytes)
  | .overrun line => .become (s.setOvr line)
  | .onFlush r => .become (s.setOnFlush r)
  | .reset => .become s.engineReset
  | .dispatcher => .become s.dispatcherStep
  | .blockStep => s.blockStep

/-- The next step of the machine. -/
def State.fetch (s : State) : Fetched :=
  match s.pending with
  | [] => if s.inService then s.blockStep else .run .service s
  | p :: rest =>
    if s.inService && !p.within then s.blockStep
    else (s.setPending rest).perform p.act

/-- The word's bytes stand first in line, to be taken at the next step wherever the machine is. -/
def State.placeWord (s : State) (bytes : List Byte) : State :=
  s.setPending (⟨true, .word bytes⟩ :: s.pending)

end Sys2Proof.Machine
end

