-- ==== Sys2Proof/Machine/Step.lean ====
section
/-!
DEFINITION. One step of the machine (00/R9: one rule application), and where the host places a word.
-/

namespace Sys2Proof.Machine

/-- One step: what `State.fetch` picks, run by `exec`. -/
def step (s : State) : Host.Outcome State Fault Refusal :=
  match s.fetch with
  | .run i t => exec i t
  | .become t => .next t
  | .stop r => .refused r

/-- The word, numbered as the opcode table numbers it, placed first in line: the next step decodes and
runs exactly it. -/
def State.withFetchWord (s : State) (nbits w : Nat) : State := s.placeWord (tableBytes nbits w)

end Sys2Proof.Machine
end

