-- ==== Sys2Proof/Safety.lean ====
section
/-!
DEFINITION. The terms claims use: the invariant of every reachable state, the quiescent point, the hold,
and the framer as a function of the stream (40/R83).
-/

namespace Sys2Proof.Machine

/-- 10/R21: an accepted length while a body is awaited. -/
abbrev State.lengthLegal (s : State) : Prop := s.st = .awaitingBody → legalLength s.cfg s.explen = true

/-- 10/R13: only indices below MAX_BUFFER - 1 are ever written. -/
abbrev State.bufWithin (s : State) : Prop := ∀ x ∈ s.buf, x.1 + 1 < s.cfg.maxBuffer

/-- 20/R39: `2 ≤ |body| ≤ MAX_BUFFER - 1` for every hand-off. -/
abbrev State.bodiesBounded (s : State) : Prop :=
  ∀ h ∈ s.dlog, 2 ≤ h.body.length ∧ h.body.length + 1 ≤ s.cfg.maxBuffer

/-- 10/R14: `init` is set exactly when a datagram has been completed since reset. -/
abbrev State.initTellsHandOff (s : State) : Prop := s.init = true ↔ s.dlog ≠ []

/-- 40/R76 (corner case f): during a hand-off the framer is in Idle. -/
abbrev State.handOffIdle (s : State) : Prop := s.phase = .handOff → s.st = .idle

/-- What holds at reset and after every step. -/
abbrev State.Inv (s : State) : Prop :=
  s.lengthLegal ∧ s.buf.wf ∧ s.bufWithin ∧ s.bodiesBounded ∧ s.initTellsHandOff ∧ s.handOffIdle ∧
    s.disp.seen ≤ s.dlog.length

/-- 70/R170: a run may be taken as finished here: no operation in progress, Idle, nothing to read. -/
abbrev State.quiescent (s : State) : Prop := s.phase = .outside ∧ s.st = .idle ∧ s.rxq = []

/-- 40/R75: a frame is in flight and its bytes are not all there. -/
abbrev State.held (s : State) : Prop :=
  s.st = .awaitingBody ∧ 1 ≤ s.rxAvail ∧ s.rxAvail < s.explen.toNat

/-- The block itself moves next: a SERVICE is in progress and no action marked `within` is first in line. -/
abbrev State.blockMoves (s : State) : Prop :=
  s.inService = true ∧ ∀ p ∈ s.pending.head?, p.within = false

/-- 40/R83, extended to a start in AwaitingBody: the hand-offs the framer makes of the bytes `bs`, with
`fuel` bounding the number of operations. -/
def framesFuel (c : Config) : Nat → RxState → Byte → List Byte → List HandOff
  | 0, _, _, _ => []
  | _ + 1, _, _, [] => []
  | n + 1, .idle, explen, b :: t =>
    if b = c.h1 then framesFuel c n .header1Seen explen t else framesFuel c n .idle explen t
  | n + 1, .header1Seen, explen, b :: t =>
    if b = c.h2 then framesFuel c n .header2Seen explen t else framesFuel c n .idle explen t
  | n + 1, .header2Seen, explen, len :: t =>
    if legalLength c len then framesFuel c n .awaitingBody len t else framesFuel c n .idle explen t
  | n + 1, .awaitingBody, explen, cmd :: t =>
    if explen.toNat ≤ t.length + 1 then
      ⟨cmd, t.take (explen.toNat - 1)⟩ :: framesFuel c n .idle explen (t.drop (explen.toNat - 1))
    else []

/-- 40/R83: each operation consumes a byte, so as many as there are bytes suffice. -/
def frames (c : Config) (st : RxState) (explen : Byte) (bs : List Byte) : List HandOff :=
  framesFuel c bs.length st explen bs

/-- The wire side delivers each piece and the host invokes SERVICE after it. -/
def feedPieces (pieces : List (List Byte)) : List Pending :=
  pieces.flatMap fun p => [⟨false, .push p⟩, ⟨false, .op .service⟩]

/-- No overrun recovery can fire: the indicator is not supported, or the environment holds it false. -/
abbrev State.overrunQuiet (s : State) : Prop := s.cfg.overrunSupported = false ∨ s.ovr = .held false

end Sys2Proof.Machine
end

