-- ==== Sys2Proof/Certificates/Slice0/Obligations.lean ====
section
/-!
DEFINITION. The statements for the provers: one `def Obligations.<Name> : Prop` each.
-/

open Sys2Proof Sys2Proof.Machine

/-! ### Reset and the invariant -/

/-- 10/R22, 70/R150, R151: right after reset the framer is in Idle, `init` is 0, no operation is in
progress and the logs are empty. That a byte of `buf` cannot be read before it is written is the model's
form of "unspecified" (log entry 4); that `explen` is a free value is the model's (log entry 3). -/
def Obligations.ResetStateOfEngine : Prop :=
  State.reset.st = .idle ∧ State.reset.init = false ∧ State.reset.phase = .outside ∧
    State.reset.txq = [] ∧ State.reset.dlog = [] ∧ State.reset.flushes = 0 ∧
    State.reset.explen = Config.freeExplen 0 ∧
    ∀ i, i < State.reset.cfg.maxBuffer → State.reset.bufRead i = .error (.fault (.bufUnwritten i))

/-- 70/R150, R151, R153, 10/R16: engine initialisation, whenever it comes: Idle, `init` 0, no operation in
progress, `buf` unspecified, the logs empty; the transport keeps its bytes, nothing is sent (when it may come,
and what of the environment it keeps, is the model's reading, log entries 7 and 8). -/
def Obligations.EngineResetLeavesTransport : Prop :=
  ∀ (s : State) (w : Bool) (rest : List Pending), s.pending = ⟨w, .reset⟩ :: rest →
    (s.inService = false ∨ w = true) →
    ∃ t, step s = .next t ∧ t.st = .idle ∧ t.init = false ∧ t.phase = .outside ∧ t.txq = [] ∧
      t.dlog = [] ∧ t.flushes = 0 ∧ (∀ i, t.buf.read i = none) ∧ t.rxq = s.rxq ∧ t.ovr = s.ovr ∧
      t.onFlush = s.onFlush ∧ t.cfg = s.cfg ∧ t.pending = rest

/-- The invariant holds at reset (the model's own log of hand-offs and store of `buf` included). -/
def Obligations.ResetMeetsInvariant : Prop := State.reset.Inv

/-- 10/R21, R13, R14, 20/R39: every step keeps the invariant: an accepted length while a body is awaited,
`buf` in canonical form and written only below MAX_BUFFER - 1, hand-off bodies of 2 to MAX_BUFFER - 1
bytes, `init` set exactly when a hand-off has been made since reset. -/
def Obligations.StepKeepsInvariant : Prop :=
  ∀ s t : State, s.Inv → step s = .next t → t.Inv

/-- 40/R81, 60/R130: from a state that meets the invariant no step faults: `buf` is never indexed out of
bounds, and no byte of it is read before it is written. -/
def Obligations.InvariantExcludesFaults : Prop :=
  ∀ (s : State) (f : Fault), s.Inv → step s ≠ .fault f

/-- 40/R80: no step reads an empty transport, from any state. -/
def Obligations.NoStepReadsEmptyTransport : Prop :=
  ∀ s : State, step s ≠ .refused .rxReadEmpty

/-- 10/R16: no step changes a parameter. -/
def Obligations.NoStepChangesParameters : Prop :=
  ∀ s t : State, step s = .next t → t.cfg = s.cfg

/-! ### How a step runs an instruction -/

/-- A pending word first in line is decoded and run with the word taken off the line; a word that decodes
to no row is refused by name. The same for an operation issued as a structured value (30/R66). The line is the
model's, log entry 8. -/
def Obligations.StepRunsDecodedWord : Prop :=
  ∀ (s : State) (w : Bool) (rest : List Pending), (s.inService = false ∨ w = true) →
    (∀ bytes i, s.pending = ⟨w, .word bytes⟩ :: rest → decodeWord s.cfg bytes = .ok i →
      step s = exec i { s with pending := rest }) ∧
    (∀ bytes e, s.pending = ⟨w, .word bytes⟩ :: rest → decodeWord s.cfg bytes = .error e →
      step s = .refused (.undecodable e)) ∧
    (∀ i, s.pending = ⟨w, .op i⟩ :: rest → step s = exec i { s with pending := rest })

/-- 40/R70, 30/R59: in the byte loop of a SERVICE the step is exec of the operation the decoder reads from
the receive stream; with nothing to read the invocation ends. -/
def Obligations.StepRunsSelectedRxOperation : Prop :=
  ∀ s : State, s.blockMoves → s.scanning = true →
    (∀ i rest, decode s.cfg (.rx s.st s.explen) s.rxq = .ok (i, rest) → step s = exec i s) ∧
    (s.rxq = [] → step s = .next { s with phase := .outside })

/-- 00/R9, 70/R171 (the model's reading, log entry 8): with nothing pending and no operation in progress
the outer control loop invokes SERVICE. -/
def Obligations.OuterLoopPolls : Prop :=
  ∀ s : State, s.pending = [] → s.phase = .outside → step s = exec .service s

/-- 10/R19: the wire side appends bytes at the end of the receive FIFO and changes nothing else, also
between two steps of one SERVICE. -/
def Obligations.ArrivalsOnlyAppend : Prop :=
  ∀ (s : State) (w : Bool) (bytes : List Byte) (rest : List Pending),
    s.pending = ⟨w, .push bytes⟩ :: rest → (s.inService = false ∨ w = true) →
    step s = .next { s with rxq := s.rxq ++ bytes, pending := rest }

/-! ### SERVICE and the overrun recovery -/

/-- 40/R70, 70/R161 (log entries 9, 10): SERVICE begins an invocation where none is in progress, and is
refused where one is. -/
def Obligations.ServiceBeginsInvocation : Prop :=
  ∀ s : State,
    (s.phase = .outside → exec .service s = .next { s with phase := .entry }) ∧
    (s.phase ≠ .outside → exec .service s = .refused .reentrantService)

/-- 40/R71, 00/R7: at the entry of a SERVICE, with the indicator supported and true and no byte there,
RX.OVERRUN sets `st` to Idle and emits one flush; only the transport's side (the indicator, the draws)
may change with it, and the FIFO stays empty. Otherwise it is refused. -/
def Obligations.OverrunRecoveryEffect : Prop :=
  ∀ s : State,
    (s.phase = .entry → s.cfg.overrunSupported = true → s.rxOverrun = true → s.rxq = [] →
      ∃ line n, exec .rxOverrun s =
        .next { s with st := .idle, flushes := s.flushes + 1, phase := .scan, ovr := line, draws := n }) ∧
    (s.phase ≠ .entry ∨ s.cfg.overrunSupported = false ∨ s.rxOverrun = false ∨ s.rxq ≠ [] →
      exec .rxOverrun s = .refused .rxNotSelected)

/-- 40/R70, R71: the overrun check is made once, first thing in the invocation: RX.OVERRUN where its
condition holds, else the byte loop begins (the count of draws is the model's, log entry 25). -/
def Obligations.OverrunCheckComesFirst : Prop :=
  ∀ s : State, s.blockMoves → s.phase = .entry →
    step s = if s.cfg.overrunSupported = true ∧ s.rxOverrun = true ∧ s.rxq = [] then exec .rxOverrun s
      else .next { s with phase := .scan, draws := s.draws + 1 }

/-- 20/R35, 93/U2: whatever the environment's reaction to a flush, the receive FIFO is afterwards a suffix
of what it was, one event is logged, and the block's registers, the transmit stream and the dispatch log
are as before. -/
def Obligations.FlushOnlyShortensReceiveStream : Prop :=
  ∀ s : State, ∃ t, s.flush = t ∧ t.rxq <:+ s.rxq ∧ t.flushes = s.flushes + 1 ∧ t.st = s.st ∧
    t.explen = s.explen ∧ t.buf = s.buf ∧ t.init = s.init ∧ t.phase = s.phase ∧ t.txq = s.txq ∧
    t.dlog = s.dlog ∧ t.cfg = s.cfg ∧ t.pending = s.pending

/-- 40/R70, R79: with no arrivals, an invocation that has begun returns within as many steps as there are
bytes, and two (the overrun check and the return), with no byte left or the frame held. -/
def Obligations.ServiceReturns : Prop :=
  ∀ s : State, s.Inv → s.phase = .entry → s.pending = [] →
    ∃ k t, k ≤ s.rxq.length + 2 ∧ Host.Core.run core k s = .next t ∧ t.phase = .outside ∧
      (t.rxq = [] ∨ t.held)

/-! ### The RX operations -/

/-- 40/R72. -/
def Obligations.IdleConsumesOneByte : Prop :=
  ∀ (s : State) (b : Byte) (t : List Byte), s.scanning = true → s.st = .idle → s.rxq = b :: t →
    (b = s.cfg.h1 →
      exec .rxIdleH1 s = .next { s with rxq := t, st := .header1Seen, phase := .scan }) ∧
    (b ≠ s.cfg.h1 →
      exec (.rxIdleDrop b) s = .next { s with rxq := t, st := .idle, phase := .scan })

/-- 40/R73: a byte equal to `H1` is no exception. -/
def Obligations.Header1SeenConsumesOneByte : Prop :=
  ∀ (s : State) (b : Byte) (t : List Byte), s.scanning = true → s.st = .header1Seen → s.rxq = b :: t →
    (b = s.cfg.h2 →
      exec .rxH1SeenH2 s = .next { s with rxq := t, st := .header2Seen, phase := .scan }) ∧
    (b ≠ s.cfg.h2 →
      exec (.rxH1SeenMiss b) s = .next { s with rxq := t, st := .idle, phase := .scan })

/-- 40/R74: both bounds inclusive, `L` unsigned. That a rejected length leaves `explen` as it was is DEDUCED from
60/R139 (log entry 19); R74 (f) calls it unobservable. -/
def Obligations.LengthByteAcceptedOrRejected : Prop :=
  ∀ (s : State) (len : Byte) (t : List Byte), s.scanning = true → s.st = .header2Seen → s.rxq = len :: t →
    (3 ≤ len.toNat ∧ len.toNat ≤ s.cfg.maxBuffer →
      exec (.rxH2SeenAccept len) s =
        .next { s with rxq := t, st := .awaitingBody, explen := len, phase := .scan }) ∧
    (len.toNat < 3 ∨ s.cfg.maxBuffer < len.toNat →
      exec (.rxH2SeenReject len) s = .next { s with rxq := t, st := .idle, phase := .scan })

/-- 40/R75: RX.HOLD changes no state, consumes no byte, and ends the invocation; in AwaitingBody with no
byte there the invocation ends with the same effect. -/
def Obligations.HoldEndsInvocation : Prop :=
  ∀ s : State, s.scanning = true → s.st = .awaitingBody →
    (1 ≤ s.rxAvail → s.rxAvail < s.explen.toNat → exec .rxHold s = .next { s with phase := .outside }) ∧
    (s.rxAvail = 0 → s.blockMoves → step s = .next { s with phase := .outside })

/-- 40/R76 to R78, R81: RX.BODY consumes exactly `explen` bytes, stores the body at `buf[0..explen-2]` and
no other index, sets `init`, hands off `(cmd, body)`, and returns to Idle; everything else is unchanged. -/
def Obligations.BodyHandsOffFrame : Prop :=
  ∀ (s : State) (cmd : Byte) (body rest : List Byte), s.scanning = true → s.st = .awaitingBody →
    legalLength s.cfg s.explen = true → s.rxq = cmd :: body ++ rest → body.length + 1 = s.explen.toNat →
    ∃ m, exec (.rxBody cmd body) s =
        .next { s with
          rxq := rest, st := .idle, init := true, dlog := s.dlog ++ [⟨cmd, body⟩], buf := m,
          phase := .handOff } ∧
      (∀ i, i < body.length → m.read i = body[i]?) ∧
      (∀ i, body.length ≤ i → m.read i = s.buf.read i)

/-- 40/R70 (corner case f): outside a SERVICE invocation no RX operation is enabled. -/
def Obligations.NoRxOperationOutsideService : Prop :=
  ∀ (s : State) (b : Byte) (body : List Byte), s.phase = .outside →
    ∀ i ∈ [Instr.rxOverrun, .rxIdleH1, .rxIdleDrop b, .rxH1SeenH2, .rxH1SeenMiss b, .rxH2SeenAccept b,
      .rxH2SeenReject b, .rxHold, .rxBody b body], exec i s = .refused .rxNotSelected

/-- 30/R59, every row: what a step of the byte loop does, by `st`, the bytes there, and the next byte. That a
rejected length leaves `explen` as it was is DEDUCED from 60/R139 (log entry 19). -/
def Obligations.DecodeTableRows : Prop :=
  (∀ s : State, s.blockMoves → s.scanning = true → s.rxq = [] → step s = .next { s with phase := .outside }) ∧
  ∀ (s : State) (b : Byte) (t : List Byte), s.blockMoves → s.scanning = true → s.rxq = b :: t →
    (s.st = .idle → step s =
      .next { s with rxq := t, st := if b = s.cfg.h1 then .header1Seen else .idle, phase := .scan }) ∧
    (s.st = .header1Seen → step s =
      .next { s with rxq := t, st := if b = s.cfg.h2 then .header2Seen else .idle, phase := .scan }) ∧
    (s.st = .header2Seen → 3 ≤ b.toNat → b.toNat ≤ s.cfg.maxBuffer → step s =
      .next { s with rxq := t, st := .awaitingBody, explen := b, phase := .scan }) ∧
    (s.st = .header2Seen → b.toNat < 3 ∨ s.cfg.maxBuffer < b.toNat → step s =
      .next { s with rxq := t, st := .idle, phase := .scan }) ∧
    (s.st = .awaitingBody → t.length + 1 < s.explen.toNat → step s =
      .next { s with phase := .outside }) ∧
    (s.st = .awaitingBody → 3 ≤ s.explen.toNat → s.explen.toNat ≤ s.cfg.maxBuffer →
      s.explen.toNat ≤ t.length + 1 → ∃ m, step s =
      .next { s with
        rxq := t.drop (s.explen.toNat - 1), st := .idle, init := true, buf := m,
        dlog := s.dlog ++ [⟨b, t.take (s.explen.toNat - 1)⟩], phase := .handOff } ∧
      (∀ i, i < s.explen.toNat - 1 → m.read i = t[i]?) ∧
      (∀ i, s.explen.toNat - 1 ≤ i → m.read i = s.buf.read i))

/-- 10/R10 (table, "written by"), 20/R46 (c): no RX operation writes the transmit stream, and each register
is written only by the operations the table names; of the two arms of RX.H2SEEN only RX.H2SEEN_accept writes
`explen`, DEDUCED from 60/R139 (log entry 19). -/
def Obligations.RxOperationsFrame : Prop :=
  ∀ (s t : State) (b : Byte) (body : List Byte),
    ∀ i ∈ [Instr.service, .rxOverrun, .rxIdleH1, .rxIdleDrop b, .rxH1SeenH2, .rxH1SeenMiss b,
      .rxH2SeenAccept b, .rxH2SeenReject b, .rxHold, .rxBody b body], exec i s = .next t →
      t.cfg = s.cfg ∧ t.txq = s.txq ∧ t.disp = s.disp ∧ t.padOut = s.padOut ∧ t.pending = s.pending ∧
      t.onFlush = s.onFlush ∧ t.rxq <:+ s.rxq ∧
      (i ≠ .rxH2SeenAccept b → t.explen = s.explen) ∧
      (i ≠ .rxBody b body → t.buf = s.buf ∧ t.init = s.init ∧ t.dlog = s.dlog) ∧
      (i ≠ .rxOverrun → t.flushes = s.flushes ∧ t.ovr = s.ovr ∧ t.draws = s.draws) ∧
      (i = .service ∨ i = .rxHold → t.st = s.st)

/-! ### The framer over a stream -/

/-- 40/R82: a frame that starts in Idle is consumed whole, handed off once, and leaves the framer in Idle
with the following byte unread. -/
def Obligations.WellFormedFrameAccepted : Prop :=
  ∀ (s : State) (len cmd : Byte) (body rest : List Byte), s.pending = [] → s.scanning = true →
    s.st = .idle → legalLength s.cfg len = true → body.length + 1 = len.toNat →
    s.rxq = s.cfg.h1 :: s.cfg.h2 :: len :: cmd :: body ++ rest →
    ∃ t, Host.Core.run core 4 s = .next t ∧ t.rxq = rest ∧ t.st = .idle ∧ t.init = true ∧
      t.dlog = s.dlog ++ [⟨cmd, body⟩] ∧ t.txq = s.txq ∧ t.flushes = s.flushes

/-- 40/R84, 60/R133: after the two magic bytes and an illegal length the framer is in Idle, and a valid
frame that starts at the very next byte is accepted whole. -/
def Obligations.ResynchronisesAfterBadLength : Prop :=
  ∀ (s : State) (bad len cmd : Byte) (body rest : List Byte), s.pending = [] → s.scanning = true →
    s.st = .idle → legalLength s.cfg bad = false → legalLength s.cfg len = true →
    body.length + 1 = len.toNat →
    s.rxq = s.cfg.h1 :: s.cfg.h2 :: bad :: s.cfg.h1 :: s.cfg.h2 :: len :: cmd :: body ++ rest →
    ∃ t, Host.Core.run core 7 s = .next t ∧ t.rxq = rest ∧ t.st = .idle ∧ t.init = true ∧
      t.dlog = s.dlog ++ [⟨cmd, body⟩]

/-- 40/R73 (corner case a), 70/R157: with different magic bytes, a stray `H1` directly before a frame costs
the frame's own header: it is documented, not fixed. -/
def Obligations.StrayHeaderByteLosesFrame : Prop :=
  ∀ (s : State) (rest : List Byte), s.pending = [] → s.scanning = true → s.st = .idle →
    s.cfg.h1 ≠ s.cfg.h2 → s.rxq = s.cfg.h1 :: s.cfg.h1 :: s.cfg.h2 :: rest →
    ∃ t, Host.Core.run core 3 s = .next t ∧ t.rxq = rest ∧ t.st = .idle ∧ t.dlog = s.dlog ∧
      t.init = s.init

/-- 70/R154, 40/R71 (corner case b), R75: a held frame with bytes in the FIFO is not recovered by an
overrun: a whole SERVICE changes nothing but the model's count of draws (log entry 25), whatever the indicator. -/
def Obligations.HeldFrameIsNotRecovered : Prop :=
  ∀ s : State, s.pending = [] → s.phase = .outside → s.held →
    Host.Core.run core 3 s = .next { s with draws := s.draws + 1 }

/-- 40/R83: while no RX.OVERRUN fires and no reset comes, the hand-offs made so far and those the framer
will make of the unread bytes and any bytes to come are a function of the byte sequence alone: a step
changes that function only by the bytes that arrive in it, and a step of the block not at all. -/
def Obligations.StreamDeterminesHandOffs : Prop :=
  ∀ s t : State, s.Inv → step s = .next t →
    (s.phase = .entry → s.overrunEnabled = false) → (∀ p ∈ s.pending.head?, p.act ≠ .reset) →
    ∃ arrived : List Byte, (s.blockMoves → arrived = []) ∧
      ∀ future, t.dlog ++ frames t.cfg t.st t.explen (t.rxq ++ future) =
        s.dlog ++ frames s.cfg s.st s.explen (s.rxq ++ (arrived ++ future))

/-- 40/R82, R83, 90 C7: with no overrun, however the bytes are cut into pieces, and SERVICE invoked after
each, the hand-offs are those of the whole byte sequence. -/
def Obligations.PiecesMakeNoDifference : Prop :=
  ∀ (s : State) (pieces : List (List Byte)), s.Inv → s.phase = .outside → s.overrunQuiet → pieces ≠ [] →
    s.pending = feedPieces pieces →
    ∃ k t, Host.Core.run core k s = .next t ∧ t.pending = [] ∧ t.phase = .outside ∧
      (t.rxq = [] ∨ t.held) ∧
      t.dlog = s.dlog ++ frames s.cfg s.st s.explen (s.rxq ++ pieces.flatten)

/-- 41/R99, 70/R167: a frame of the encoder, fed to a framer in Idle with the same parameters, is handed off
as `(cmd, AddrHi AddrLo data)` when `size + 3 ≤ MAX_BUFFER`, and is rejected at its length byte otherwise. -/
def Obligations.LoopBackOfEncoderFrames : Prop :=
  ∀ (s : State) (addr : Addr) (p : AddressedPayload) (rest : List Byte), s.pending = [] →
    s.scanning = true → s.st = .idle → p.bytes.length ≤ 252 →
    s.rxq = addressedBytes s.cfg addr p ++ rest →
    (p.bytes.length + 3 ≤ s.cfg.maxBuffer → ∃ t, Host.Core.run core 4 s = .next t ∧ t.rxq = rest ∧
      t.st = .idle ∧ t.dlog = s.dlog ++ [⟨p.command.code, hi8 addr :: lo8 addr :: p.bytes⟩]) ∧
    (s.cfg.maxBuffer < p.bytes.length + 3 → ∃ t, Host.Core.run core 3 s = .next t ∧
      t.rxq = p.command.code :: hi8 addr :: lo8 addr :: p.bytes ++ rest ∧ t.st = .idle ∧
      t.dlog = s.dlog ∧ t.init = s.init)

/-! ### The TX operations -/

/-- 41/R91, 93/U7: a stand-alone TX.HEADER is refused. -/
def Obligations.HeaderAloneRefused : Prop :=
  ∀ (s : State) (addr : Addr) (cmd : WireCommand) (size : Nat),
    exec (.txHeader addr cmd size) s = .refused .standaloneHeader

/-- 41/R92: seven bytes; nothing else changes. -/
def Obligations.ReadRequestBytes : Prop :=
  ∀ (s : State) (addr : Addr) (n : Byte), s.txAllowed = true →
    exec (.txRead addr n) s = .next { s with
      txq := s.txq ++ [s.cfg.h1, s.cfg.h2, 0x04#8, 0x83#8, addr.extractLsb' 8 8, addr.extractLsb' 0 8, n] }

/-- 41/R93, R97, R98: nothing for an absent payload, `size + 6` bytes for a present one within the contract
(an empty one too), a refusal beyond it. -/
def Obligations.WriteRequestBytes : Prop :=
  ∀ (s : State) (addr : Addr), s.txAllowed = true →
    exec (.txWrite addr none) s = .next s ∧
    (∀ d : List Byte, d.length ≤ 252 →
      exec (.txWrite addr (some d)) s = .next { s with
        txq := s.txq ++ [s.cfg.h1, s.cfg.h2, BitVec.ofNat 8 (d.length + 3), 0x82#8,
          addr.extractLsb' 8 8, addr.extractLsb' 0 8] ++ d }) ∧
    (∀ d : List Byte, 252 < d.length → exec (.txWrite addr (some d)) s = .refused .sizeContract)

/-- 41/R95, R96: nothing for an absent text; for a present one the header with `size = width`, then the text
cut to `width`, or the text between its padding; the ROM variant does the same. That the space character is
the byte 20 is PRESUMED (00/R6, log entry 18). -/
def Obligations.StringFieldBytes : Prop :=
  ∀ (s : State) (addr : Addr) (text : List Byte) (width : Nat) (aL aR sp : Bool), s.txAllowed = true →
    width ≤ 252 →
    let split := padSplit text.length width aL aR
    let pad : Byte := if sp then 0x20#8 else 0x00#8
    let field := if width ≤ text.length then text.take width
      else List.replicate split.1 pad ++ text ++ List.replicate split.2 pad
    let sent := State.setTxq s (s.txq ++ [s.cfg.h1, s.cfg.h2, BitVec.ofNat 8 (width + 3), 0x82#8,
      addr.extractLsb' 8 8, addr.extractLsb' 0 8] ++ field)
    exec (.txWritestr addr (some text) width aL aR sp) s = .next sent ∧
      exec (.txWritestrRom addr (some text) width aL aR sp) s = .next sent ∧
      exec (.txWritestr addr none width aL aR sp) s = .next s ∧
      exec (.txWritestrRom addr none width aL aR sp) s = .next s

/-- 41/R96: the space a text lives in makes no difference, whatever the operands and the state. -/
def Obligations.RomTextSameAsRam : Prop :=
  ∀ (s : State) (addr : Addr) (text : Option (List Byte)) (width : Nat) (aL aR sp : Bool),
    exec (.txWritestrRom addr text width aL aR sp) s = exec (.txWritestr addr text width aL aR sp) s

/-- 41/R101: the data part of the frame, byte by byte. That the space character is the byte 20 is PRESUMED
(00/R6, log entry 18). -/
def Obligations.StringFieldPointwise : Prop :=
  ∀ (s : State) (addr : Addr) (text : List Byte) (width : Nat) (aL aR sp : Bool), s.txAllowed = true →
    width ≤ 252 →
    ∃ field : List Byte, field.length = width ∧
      exec (.txWritestr addr (some text) width aL aR sp) s = .next { s with
        txq := s.txq ++ [s.cfg.h1, s.cfg.h2, BitVec.ofNat 8 (width + 3), 0x82#8,
          addr.extractLsb' 8 8, addr.extractLsb' 0 8] ++ field } ∧
      ∀ k, k < width →
        let left := (padSplit text.length width aL aR).1
        let pad : Byte := if sp then 0x20#8 else 0x00#8
        field[k]? =
          if width ≤ text.length then text[k]?
          else if k < left then some pad
          else if k < left + text.length then text[k - left]?
          else some pad

/-- 41/R94: the numbers of padding bytes, by the cases in the order written; they fill the field. -/
def Obligations.PaddingSplitCases : Prop :=
  ∀ (len width : Nat) (aL aR : Bool), len < width →
    let left := (padSplit len width aL aR).1
    let right := (padSplit len width aL aR).2
    left + right = width - len ∧ left + len + right = width ∧
      (len = 0 → left = 0 ∧ right = width - len) ∧
      (0 < len → aL = aR → left = (width - len) / 2 ∧ right = width - len - left) ∧
      (0 < len → aL = true → aR = false → left = 0 ∧ right = width - len) ∧
      (0 < len → aL = false → aR = true → left = width - len ∧ right = 0)

/-- 41/R94 (the record of the result is the model's, log entry 14): a stand-alone PADSPLIT answers the two
numbers and changes nothing else; it is defined for `len < width` only. -/
def Obligations.PadsplitAnswersItsSplit : Prop :=
  ∀ (s : State) (len width : Nat) (aL aR : Bool),
    (len < width → exec (.padsplit len width aL aR) s =
      .next { s with padOut := some (padSplit len width aL aR) }) ∧
    (width ≤ len → exec (.padsplit len width aL aR) s = .refused .padsplitUndefined)

/-- 41/R97, 60/R138: an absent payload sends nothing and changes nothing, whatever the width: presence is
tested before the size contract. TX.READ has no such case: it always sends. -/
def Obligations.AbsentPayloadSendsNothing : Prop :=
  ∀ (s : State) (addr : Addr) (n : Byte) (width : Nat) (aL aR sp : Bool), s.txAllowed = true →
    exec (.txWrite addr none) s = .next s ∧ exec (.txWritestr addr none width aL aR sp) s = .next s ∧
      exec (.txWritestrRom addr none width aL aR sp) s = .next s ∧
      ∃ t, exec (.txRead addr n) s = .next t ∧ t.txq.length = s.txq.length + 7

/-- 41/R98, 93/U3: a present payload beyond 252 bytes is refused: no length byte is picked. -/
def Obligations.SizeContractRefused : Prop :=
  ∀ (s : State) (addr : Addr) (d text : List Byte) (width : Nat) (aL aR sp : Bool), s.txAllowed = true →
    252 < d.length → 252 < width →
    ∀ i ∈ [Instr.txWrite addr (some d), .txWritestr addr (some text) width aL aR sp,
      .txWritestrRom addr (some text) width aL aR sp], exec i s = .refused .sizeContract

/-- 20/R46, 70/R161, 93/U6 (log entry 10): while a SERVICE is in progress and not in a hand-off, no TX operation and no
outgoing frame is admitted. -/
def Obligations.ConcurrentOperationRefused : Prop :=
  ∀ (s : State) (addr : Addr) (n : Byte) (d : Option (List Byte)) (data : List Byte) (p : AddressedPayload)
    (width : Nat) (aL aR sp : Bool), s.phase = .entry ∨ s.phase = .scan →
    ∀ i ∈ [Instr.txRead addr n, .txWrite addr d, .txWritestr addr d width aL aR sp,
      .txWritestrRom addr d width aL aR sp, .frameAddressed addr p, .frameReadRequest addr n,
      .frameWriteRequest addr data], exec i s = .refused .concurrentOperation

/-- 41/R90, 20/R46 (c), 10/R15: a TX operation appends its bytes, which the operands and the parameters alone
give, to the transmit stream and changes nothing else: no register of the framer, no byte of `buf`, nothing of
the receive stream or the dispatch log. That the three outgoing frame rows are acts of sending, under the same
rule, is the model's reading (log entry 16). -/
def Obligations.TxOperationsFrame : Prop :=
  ∀ (s t : State) (addr : Addr) (n : Byte) (d : Option (List Byte)) (data : List Byte)
    (p : AddressedPayload) (width : Nat) (aL aR sp : Bool),
    ∀ i ∈ [Instr.txRead addr n, .txWrite addr d, .txWritestr addr d width aL aR sp,
      .txWritestrRom addr d width aL aR sp, .frameAddressed addr p, .frameReadRequest addr n,
      .frameWriteRequest addr data], exec i s = .next t →
      t = { s with txq := s.txq ++ encode s.cfg i }

/-! ### The wire rows -/

/-- 30/R52, 10/R19 (the model's reading, log entry 15): the command bytes as the wire side delivers them. -/
def Obligations.CommandBytesArrive : Prop :=
  ∀ s : State,
    exec .writevar s = .next { s with rxq := s.rxq ++ [0x82#8] } ∧
    exec .readvar s = .next { s with rxq := s.rxq ++ [0x83#8] }

/-- 30/R50, R56, R57, 10/R19 (the model's reading, log entry 15): the bytes of a frame from the display, in
order; a body that does not fit the length field is refused. The bytes 4F 4B of "OK" are PRESUMED (30/R57, log
entry 18). -/
def Obligations.InboundFramesArrive : Prop :=
  ∀ (s : State) (cmd : Byte) (body : List Byte) (addr : Addr) (w : Byte) (data : List Byte),
    (body.length ≤ 254 → exec (.frame cmd body) s = .next { s with
      rxq := s.rxq ++ (s.cfg.h1 :: s.cfg.h2 :: BitVec.ofNat 8 (body.length + 1) :: cmd :: body) }) ∧
    (254 < body.length → exec (.frame cmd body) s = .refused .frameTooLong) ∧
    (data.length ≤ 251 → exec (.frameReadvarReport addr w data) s = .next { s with
      rxq := s.rxq ++ (s.cfg.h1 :: s.cfg.h2 :: BitVec.ofNat 8 (data.length + 4) :: 0x83#8 ::
        addr.extractLsb' 8 8 :: addr.extractLsb' 0 8 :: w :: data) }) ∧
    (251 < data.length → exec (.frameReadvarReport addr w data) s = .refused .frameTooLong) ∧
    exec .frameWriteAck s = .next { s with
      rxq := s.rxq ++ [s.cfg.h1, s.cfg.h2, 0x03#8, 0x82#8, 0x4F#8, 0x4B#8] }

/-- 30/R53 to R55, 41/R92, R93, R98 (that a frame row is an act of sending is the model's reading, log
entry 16): an outgoing frame layout is what the TX operation emits: sending the frame is the operation, and
both complete; beyond 252 bytes it is refused as the operation is. -/
def Obligations.OutgoingFramesAreOperations : Prop :=
  ∀ (s : State) (addr : Addr) (n : Byte) (d : List Byte), s.txAllowed = true →
    (252 < d.length → exec (.frameWriteRequest addr d) s = .refused .sizeContract ∧
      exec (.frameAddressed addr (.data d)) s = .refused .sizeContract) ∧
    (d.length ≤ 252 → ∃ r w, exec (.frameReadRequest addr n) s = .next r ∧ exec (.txRead addr n) s = .next r ∧
      exec (.frameAddressed addr (.wordCount n)) s = .next r ∧
      r = { s with txq := s.txq ++ [s.cfg.h1, s.cfg.h2, 0x04#8, 0x83#8, addr.extractLsb' 8 8,
        addr.extractLsb' 0 8, n] } ∧
      exec (.frameWriteRequest addr d) s = .next w ∧ exec (.txWrite addr (some d)) s = .next w ∧
      exec (.frameAddressed addr (.data d)) s = .next w ∧
      w = { s with txq := s.txq ++ [s.cfg.h1, s.cfg.h2, BitVec.ofNat 8 (d.length + 3), 0x82#8,
        addr.extractLsb' 8 8, addr.extractLsb' 0 8] ++ d })

/-! ### Encoding -/

/-- A few words written out from the spec's layouts decode to what they stand for, whatever the magic
bytes: 30/R52 (82, 83), R57 (the acknowledgment, whose bytes of "OK" are PRESUMED, log entry 18), R54, R55. -/
def Obligations.KnownWordsDecode : Prop :=
  ∀ c : Config,
    decodeWord c [0x82#8] = .ok .writevar ∧ decodeWord c [0x83#8] = .ok .readvar ∧
    decodeWord c [c.h1, c.h2, 0x03#8, 0x82#8, 0x4F#8, 0x4B#8] = .ok .frameWriteAck ∧
    decode c .outbound [c.h1, c.h2, 0x04#8, 0x83#8, 0x12#8, 0x34#8, 0x02#8] =
      .ok (.frameReadRequest 0x1234#16 0x02#8, []) ∧
    decode c .host [c.h1, c.h2, 0x05#8, 0x82#8, 0x10#8, 0x00#8, 0x01#8, 0x02#8] =
      .ok (.txWrite 0x1000#16 (some [0x01#8, 0x02#8]), [])

/-- 30/R50 to R59: every well-formed instruction that has bytes of its own decodes back from them, at its
place, with every operand, whatever bytes follow. -/
def Obligations.DecodeOfEncode : Prop :=
  ∀ (c : Config) (i : Instr) (at_ : DecodeContext) (rest : List Byte), i.wellFormed c = true →
    i.homeContext = some at_ → decode c at_ (encode c i ++ rest) = .ok (i, rest)

/-- 30/R50 to R59: what the decoder reads is there: the bytes it consumed are the bytes of the instruction
it answers, at every place. -/
def Obligations.EncodeOfDecode : Prop :=
  ∀ (c : Config) (at_ : DecodeContext) (bytes rest : List Byte) (i : Instr),
    decode c at_ bytes = .ok (i, rest) → encode c i ++ rest = bytes

/-- 30/R53, 41/R95, R96: the rows that are another name of another row's bytes: FRAME.ADDRESSED reads back
as a read or write request, a string write as the TX.WRITE of its field. -/
def Obligations.OtherNamesDecode : Prop :=
  ∀ (c : Config) (addr : Addr) (p : AddressedPayload) (text : List Byte) (width : Nat) (aL aR sp : Bool)
    (rest : List Byte), p.bytes.length ≤ 252 → width ≤ 252 →
    decode c .outbound (encode c (.frameAddressed addr p) ++ rest) = .ok (outboundRow addr p, rest) ∧
    decode c .host (encode c (.txWritestr addr (some text) width aL aR sp) ++ rest) =
      .ok (.txWrite addr (some (stringField text width aL aR sp)), rest) ∧
    decode c .host (encode c (.txWritestrRom addr (some text) width aL aR sp) ++ rest) =
      .ok (.txWrite addr (some (stringField text width aL aR sp)), rest)

/-! ### The logs, the flag, the dispatcher -/

/-- 10/R20: but for a reset, no step takes anything out of the transmit stream, the dispatch log or the
flush log. -/
def Obligations.LogsOnlyGrow : Prop :=
  ∀ s t : State, step s = .next t → (∀ p ∈ s.pending.head?, p.act ≠ .reset) →
    s.txq <+: t.txq ∧ s.dlog <+: t.dlog ∧ s.flushes ≤ t.flushes

/-- 10/R14, 40/R78: no step but a reset clears `init`, and a step that sets it makes a hand-off. -/
def Obligations.InitSetByHandOffOnly : Prop :=
  ∀ s t : State, step s = .next t → (∀ p ∈ s.pending.head?, p.act ≠ .reset) →
    (s.init = true → t.init = true) ∧ (s.init = false → t.init = true → s.dlog ≠ t.dlog)

/-- 49/R112 (environment): a WRITEVAR datagram whose body starts with "OK" is discarded, and no WRITEVAR
datagram reaches a handler. R112 gives no bytes for "OK": 4F 4B are PRESUMED (30/R57, log entry 18). -/
def Obligations.WriteAckNeverHandled : Prop :=
  ∀ (c : Config) (past : Nat → Byte) (h : HandOff), h.cmd = 0x82#8 →
    (h.body.take 2 = [0x4F#8, 0x4B#8] → dispatchOne c past h = .acknowledged) ∧
    ∀ call, dispatchOne c past h ≠ .handled call

/-- 49/R117 (environment): a string handler gets exactly `size` bytes: those before the terminator, cut to
`size`, then zeros. For data of `size - 1` bytes the terminator lies across the end of the buffer: that its first
FF is not copied then is the model's choice (log entry 29). -/
def Obligations.StringPayloadStopsAtTerminator : Prop :=
  ∀ (hi lo w : Byte) (data junk : List Byte) (size : Nat), (∀ b ∈ data, b ≠ 0xFF#8) →
    stringPayload size (hi :: lo :: w :: data ++ (0xFF#8 :: 0xFF#8 :: junk)) =
      data.take size ++ List.replicate (size - data.length) 0x00#8

/-- 49/R118, R113 (environment): a fixed binary row's handler is invoked only when the declared length is
the row's size, with `size` bytes from `body[3]` on. -/
def Obligations.FixedPayloadNeedsDeclaredLength : Prop :=
  ∀ (past : Nat → Byte) (table : List VpRow) (addr : Addr) (row : VpRow) (hd data : List Byte) (declared : Nat),
    vpLookup addr table = some row → row.handler ≠ none → row.size ≠ 0 → row.rxString = false →
    hd.length = 3 → row.size.toNat ≤ data.length →
    dispatchVp past table addr declared (hd ++ data) =
      if declared = row.size.toNat then .handled ⟨row, some (data.take row.size.toNat)⟩ else .sizeMismatch

/-- 49/R115, R122 (environment): the lookup answers a row only with the address asked for, never the
sentinel's, and the first such row of the table; it answers none only where the sentinel stands before every
row with that address. -/
def Obligations.LookupAnswersFirstMatch : Prop :=
  ∀ (addr : Addr) (table : List VpRow),
    (∀ row, vpLookup addr table = some row →
      row.addr = addr ∧ addr ≠ 0 ∧
      ∃ before after, table = before ++ row :: after ∧ ∀ r ∈ before, r.addr ≠ addr ∧ r.addr ≠ 0) ∧
    (vpLookup addr table = none → addr ≠ 0 →
      ∀ before row after, table = before ++ row :: after → row.addr = addr → ∃ r ∈ before, r.addr = 0)

/-- 10/R24, 20/R39 (log entries 20, 25, 27): the dispatcher taking a hand-off changes nothing of the block, the streams or the logs. -/
def Obligations.DispatcherLeavesBlock : Prop :=
  ∀ (s : State) (w : Bool) (rest : List Pending), s.pending = ⟨w, .dispatcher⟩ :: rest →
    (s.inService = false ∨ w = true) →
    ∃ d n, step s = .next { s with disp := d, draws := n, pending := rest } ∧
      d.seen = if s.disp.seen < s.dlog.length then s.disp.seen + 1 else s.disp.seen
end

