-- ==== Sys2Proof/Laws/Format.lean ====
section
/-!
SUPPORT. The laws of the frame layouts and of the string field.
-/

namespace Sys2Proof

/-- An address is put together from its two bytes. -/
theorem addrOf_hi8_lo8 (a : Addr) : addrOf (hi8 a) (lo8 a) = a := by
  apply BitVec.eq_of_getLsbD_eq
  intro i hi
  simp only [addrOf, hi8, lo8, BitVec.getLsbD_append, BitVec.getLsbD_extractLsb']
  by_cases h : i < 8
  · simp [h]
  · have : i - 8 < 8 := by omega
    have e : 8 + (i - 8) = i := by omega
    simp [h, this, e]

theorem hi8_addrOf (h l : Byte) : hi8 (addrOf h l) = h := by
  apply BitVec.eq_of_getLsbD_eq
  intro i hi
  simp only [addrOf, hi8, BitVec.getLsbD_append, BitVec.getLsbD_extractLsb']
  simp [hi]

theorem lo8_addrOf (h l : Byte) : lo8 (addrOf h l) = l := by
  apply BitVec.eq_of_getLsbD_eq
  intro i hi
  simp only [addrOf, lo8, BitVec.getLsbD_append, BitVec.getLsbD_extractLsb']
  simp [hi]

/-- 41/R94: the padding fills the field. -/
theorem padSplit_sum (len width : Nat) (aL aR : Bool) :
    (padSplit len width aL aR).1 + (padSplit len width aL aR).2 = width - len := by
  simp only [padSplit]
  split
  · simp
  · split
    · simp only; omega
    · split <;> simp

/-- 41/R101: a string field has exactly `width` bytes. -/
theorem stringField_length (text : List Byte) (width : Nat) (aL aR sp : Bool) :
    (stringField text width aL aR sp).length = width := by
  simp only [stringField]
  split
  · simp; omega
  · have := padSplit_sum text.length width aL aR
    simp; omega

theorem frameBytes_length (c : Config) (cmd : Byte) (body : List Byte) :
    (frameBytes c cmd body).length = body.length + 4 := by
  simp [frameBytes]

theorem addressedBytes_length (c : Config) (addr : Addr) (p : AddressedPayload) :
    (addressedBytes c addr p).length = p.bytes.length + 6 := by
  simp [addressedBytes, headerBytes]

/-- 30/R50, R53: a frame the TX encoder builds is a datagram whose body starts with the address. -/
theorem addressedBytes_eq_frameBytes (c : Config) (addr : Addr) (p : AddressedPayload) :
    addressedBytes c addr p = frameBytes c p.command.code (hi8 addr :: lo8 addr :: p.bytes) := by
  simp [addressedBytes, headerBytes, frameBytes, frameLength, Nat.add_assoc]

end Sys2Proof
end

