-- ==== Sys2Proof/Laws/Memory.lean ====
section
/-!
SUPPORT. The laws of the store behind `buf`: read after write, a write leaves the rest alone, every
operation keeps the canonical form, and the same for a run of writes at rising indices.
-/

namespace Sys2Proof.Machine.Memory

theorem read_write_same (i : Nat) (b : Byte) (m : Memory) : read i (write i b m) = some b := by
  induction m with
  | nil => simp [write, read]
  | cons x t ih =>
    obtain ⟨j, c⟩ := x
    simp only [write]
    split
    · simp [read]
    · split
      · simp [read]
      · rename_i h
        simp [read, h, ih]

theorem read_write_other (i k : Nat) (b : Byte) (m : Memory) (h : k ≠ i) :
    read k (write i b m) = read k m := by
  induction m with
  | nil => simp [write, read, h]
  | cons x t ih =>
    obtain ⟨j, c⟩ := x
    simp only [write]
    split
    · simp [read, h]
    · split
      · rename_i hj
        subst hj
        simp [read, h]
      · simp [read, ih]

/-- A write adds no cell but its own. -/
theorem mem_write (i : Nat) (b : Byte) (m : Memory) (x : Host.Cell) (h : x ∈ write i b m) :
    x = (i, b) ∨ x ∈ m := by
  induction m with
  | nil => simpa [write] using h
  | cons y t ih =>
    obtain ⟨j, c⟩ := y
    simp only [write] at h
    split at h
    · simpa using h
    · split at h
      · rcases List.mem_cons.mp h with h | h
        · exact .inl h
        · exact .inr (List.mem_cons_of_mem _ h)
      · rcases List.mem_cons.mp h with h | h
        · exact .inr (by simp [h])
        · exact (ih h).imp id (List.mem_cons_of_mem _)

theorem write_wf (i : Nat) (b : Byte) (m : Memory) (h : wf m) : wf (write i b m) := by
  induction m with
  | nil => simp [write]
  | cons y t ih =>
    obtain ⟨j, c⟩ := y
    obtain ⟨hj, ht⟩ := List.pairwise_cons.mp h
    simp only [write]
    split
    · rename_i hij
      refine List.pairwise_cons.mpr ⟨fun x hx => ?_, h⟩
      rcases List.mem_cons.mp hx with hx | hx
      · subst hx; exact hij
      · exact Nat.lt_trans hij (hj x hx)
    · split
      · rename_i hij
        subst hij
        exact List.pairwise_cons.mpr ⟨hj, ht⟩
      · refine List.pairwise_cons.mpr ⟨fun x hx => ?_, ih ht⟩
        rcases mem_write i b t x hx with hx | hx
        · subst hx; simp only; omega
        · exact hj x hx

/-- Write the bytes at the indices from `i` on, rising. -/
def writeAll (i : Nat) : List Byte → Memory → Memory
  | [], m => m
  | b :: t, m => writeAll (i + 1) t (write i b m)

theorem writeAll_wf (bs : List Byte) (i : Nat) (m : Memory) (h : wf m) : wf (writeAll i bs m) := by
  induction bs generalizing i m with
  | nil => exact h
  | cons b t ih => exact ih (i + 1) _ (write_wf i b m h)

theorem mem_writeAll (bs : List Byte) (i : Nat) (m : Memory) (x : Host.Cell) (h : x ∈ writeAll i bs m) :
    x ∈ m ∨ i ≤ x.1 ∧ x.1 < i + bs.length := by
  induction bs generalizing i m with
  | nil => exact .inl h
  | cons b t ih =>
    rcases ih (i + 1) _ h with h | h
    · rcases mem_write i b m x h with h | h
      · subst h; exact .inr (by simp)
      · exact .inl h
    · exact .inr (by simp only [List.length_cons]; omega)

/-- A run of writes leaves every index outside it alone. -/
theorem read_writeAll_other (bs : List Byte) (i k : Nat) (m : Memory) (h : k < i ∨ i + bs.length ≤ k) :
    read k (writeAll i bs m) = read k m := by
  induction bs generalizing i m with
  | nil => rfl
  | cons b t ih =>
    simp only [List.length_cons] at h
    rw [writeAll, ih (i + 1) _ (by omega), read_write_other i k b m (by omega)]

/-- A run of writes reads back. -/
theorem read_writeAll_same (bs : List Byte) (i k : Nat) (m : Memory) (h : k < bs.length) :
    read (i + k) (writeAll i bs m) = bs[k]? := by
  induction bs generalizing i k m with
  | nil => simp at h
  | cons b t ih =>
    cases k with
    | zero =>
      rw [writeAll, read_writeAll_other t (i + 1) (i + 0) _ (by omega)]
      simpa using read_write_same i b m
    | succ k =>
      have := ih (i + 1) k (write i b m) (by simpa using h)
      simpa [writeAll, Nat.add_assoc, Nat.add_comm 1 k] using this

/-- The scratch buffer at reset has the canonical form. -/
theorem reset_wf : wf State.reset.buf := List.Pairwise.nil

end Sys2Proof.Machine.Memory
end

