-- ==== Sys2Proof/Laws/State.lean ====
section
/-!
SUPPORT. One lemma for each field and each update of State: what the update leaves in the field.
-/

namespace Sys2Proof.Machine.State

variable (s : State)

@[simp] theorem setSt_cfg (v : RxState) : (s.setSt v).cfg = s.cfg := rfl
@[simp] theorem setSt_st (v : RxState) : (s.setSt v).st = v := rfl
@[simp] theorem setSt_explen (v : RxState) : (s.setSt v).explen = s.explen := rfl
@[simp] theorem setSt_buf (v : RxState) : (s.setSt v).buf = s.buf := rfl
@[simp] theorem setSt_init (v : RxState) : (s.setSt v).init = s.init := rfl
@[simp] theorem setSt_phase (v : RxState) : (s.setSt v).phase = s.phase := rfl
@[simp] theorem setSt_rxq (v : RxState) : (s.setSt v).rxq = s.rxq := rfl
@[simp] theorem setSt_ovr (v : RxState) : (s.setSt v).ovr = s.ovr := rfl
@[simp] theorem setSt_onFlush (v : RxState) : (s.setSt v).onFlush = s.onFlush := rfl
@[simp] theorem setSt_txq (v : RxState) : (s.setSt v).txq = s.txq := rfl
@[simp] theorem setSt_dlog (v : RxState) : (s.setSt v).dlog = s.dlog := rfl
@[simp] theorem setSt_flushes (v : RxState) : (s.setSt v).flushes = s.flushes := rfl
@[simp] theorem setSt_disp (v : RxState) : (s.setSt v).disp = s.disp := rfl
@[simp] theorem setSt_padOut (v : RxState) : (s.setSt v).padOut = s.padOut := rfl
@[simp] theorem setSt_draws (v : RxState) : (s.setSt v).draws = s.draws := rfl
@[simp] theorem setSt_pending (v : RxState) : (s.setSt v).pending = s.pending := rfl

@[simp] theorem setExplen_cfg (v : Byte) : (s.setExplen v).cfg = s.cfg := rfl
@[simp] theorem setExplen_st (v : Byte) : (s.setExplen v).st = s.st := rfl
@[simp] theorem setExplen_explen (v : Byte) : (s.setExplen v).explen = v := rfl
@[simp] theorem setExplen_buf (v : Byte) : (s.setExplen v).buf = s.buf := rfl
@[simp] theorem setExplen_init (v : Byte) : (s.setExplen v).init = s.init := rfl
@[simp] theorem setExplen_phase (v : Byte) : (s.setExplen v).phase = s.phase := rfl
@[simp] theorem setExplen_rxq (v : Byte) : (s.setExplen v).rxq = s.rxq := rfl
@[simp] theorem setExplen_ovr (v : Byte) : (s.setExplen v).ovr = s.ovr := rfl
@[simp] theorem setExplen_onFlush (v : Byte) : (s.setExplen v).onFlush = s.onFlush := rfl
@[simp] theorem setExplen_txq (v : Byte) : (s.setExplen v).txq = s.txq := rfl
@[simp] theorem setExplen_dlog (v : Byte) : (s.setExplen v).dlog = s.dlog := rfl
@[simp] theorem setExplen_flushes (v : Byte) : (s.setExplen v).flushes = s.flushes := rfl
@[simp] theorem setExplen_disp (v : Byte) : (s.setExplen v).disp = s.disp := rfl
@[simp] theorem setExplen_padOut (v : Byte) : (s.setExplen v).padOut = s.padOut := rfl
@[simp] theorem setExplen_draws (v : Byte) : (s.setExplen v).draws = s.draws := rfl
@[simp] theorem setExplen_pending (v : Byte) : (s.setExplen v).pending = s.pending := rfl

@[simp] theorem setBuf_cfg (v : Memory) : (s.setBuf v).cfg = s.cfg := rfl
@[simp] theorem setBuf_st (v : Memory) : (s.setBuf v).st = s.st := rfl
@[simp] theorem setBuf_explen (v : Memory) : (s.setBuf v).explen = s.explen := rfl
@[simp] theorem setBuf_buf (v : Memory) : (s.setBuf v).buf = v := rfl
@[simp] theorem setBuf_init (v : Memory) : (s.setBuf v).init = s.init := rfl
@[simp] theorem setBuf_phase (v : Memory) : (s.setBuf v).phase = s.phase := rfl
@[simp] theorem setBuf_rxq (v : Memory) : (s.setBuf v).rxq = s.rxq := rfl
@[simp] theorem setBuf_ovr (v : Memory) : (s.setBuf v).ovr = s.ovr := rfl
@[simp] theorem setBuf_onFlush (v : Memory) : (s.setBuf v).onFlush = s.onFlush := rfl
@[simp] theorem setBuf_txq (v : Memory) : (s.setBuf v).txq = s.txq := rfl
@[simp] theorem setBuf_dlog (v : Memory) : (s.setBuf v).dlog = s.dlog := rfl
@[simp] theorem setBuf_flushes (v : Memory) : (s.setBuf v).flushes = s.flushes := rfl
@[simp] theorem setBuf_disp (v : Memory) : (s.setBuf v).disp = s.disp := rfl
@[simp] theorem setBuf_padOut (v : Memory) : (s.setBuf v).padOut = s.padOut := rfl
@[simp] theorem setBuf_draws (v : Memory) : (s.setBuf v).draws = s.draws := rfl
@[simp] theorem setBuf_pending (v : Memory) : (s.setBuf v).pending = s.pending := rfl

@[simp] theorem setInit_cfg (v : Bool) : (s.setInit v).cfg = s.cfg := rfl
@[simp] theorem setInit_st (v : Bool) : (s.setInit v).st = s.st := rfl
@[simp] theorem setInit_explen (v : Bool) : (s.setInit v).explen = s.explen := rfl
@[simp] theorem setInit_buf (v : Bool) : (s.setInit v).buf = s.buf := rfl
@[simp] theorem setInit_init (v : Bool) : (s.setInit v).init = v := rfl
@[simp] theorem setInit_phase (v : Bool) : (s.setInit v).phase = s.phase := rfl
@[simp] theorem setInit_rxq (v : Bool) : (s.setInit v).rxq = s.rxq := rfl
@[simp] theorem setInit_ovr (v : Bool) : (s.setInit v).ovr = s.ovr := rfl
@[simp] theorem setInit_onFlush (v : Bool) : (s.setInit v).onFlush = s.onFlush := rfl
@[simp] theorem setInit_txq (v : Bool) : (s.setInit v).txq = s.txq := rfl
@[simp] theorem setInit_dlog (v : Bool) : (s.setInit v).dlog = s.dlog := rfl
@[simp] theorem setInit_flushes (v : Bool) : (s.setInit v).flushes = s.flushes := rfl
@[simp] theorem setInit_disp (v : Bool) : (s.setInit v).disp = s.disp := rfl
@[simp] theorem setInit_padOut (v : Bool) : (s.setInit v).padOut = s.padOut := rfl
@[simp] theorem setInit_draws (v : Bool) : (s.setInit v).draws = s.draws := rfl
@[simp] theorem setInit_pending (v : Bool) : (s.setInit v).pending = s.pending := rfl

@[simp] theorem setPhase_cfg (v : ServicePhase) : (s.setPhase v).cfg = s.cfg := rfl
@[simp] theorem setPhase_st (v : ServicePhase) : (s.setPhase v).st = s.st := rfl
@[simp] theorem setPhase_explen (v : ServicePhase) : (s.setPhase v).explen = s.explen := rfl
@[simp] theorem setPhase_buf (v : ServicePhase) : (s.setPhase v).buf = s.buf := rfl
@[simp] theorem setPhase_init (v : ServicePhase) : (s.setPhase v).init = s.init := rfl
@[simp] theorem setPhase_phase (v : ServicePhase) : (s.setPhase v).phase = v := rfl
@[simp] theorem setPhase_rxq (v : ServicePhase) : (s.setPhase v).rxq = s.rxq := rfl
@[simp] theorem setPhase_ovr (v : ServicePhase) : (s.setPhase v).ovr = s.ovr := rfl
@[simp] theorem setPhase_onFlush (v : ServicePhase) : (s.setPhase v).onFlush = s.onFlush := rfl
@[simp] theorem setPhase_txq (v : ServicePhase) : (s.setPhase v).txq = s.txq := rfl
@[simp] theorem setPhase_dlog (v : ServicePhase) : (s.setPhase v).dlog = s.dlog := rfl
@[simp] theorem setPhase_flushes (v : ServicePhase) : (s.setPhase v).flushes = s.flushes := rfl
@[simp] theorem setPhase_disp (v : ServicePhase) : (s.setPhase v).disp = s.disp := rfl
@[simp] theorem setPhase_padOut (v : ServicePhase) : (s.setPhase v).padOut = s.padOut := rfl
@[simp] theorem setPhase_draws (v : ServicePhase) : (s.setPhase v).draws = s.draws := rfl
@[simp] theorem setPhase_pending (v : ServicePhase) : (s.setPhase v).pending = s.pending := rfl

@[simp] theorem setRxq_cfg (v : List Byte) : (s.setRxq v).cfg = s.cfg := rfl
@[simp] theorem setRxq_st (v : List Byte) : (s.setRxq v).st = s.st := rfl
@[simp] theorem setRxq_explen (v : List Byte) : (s.setRxq v).explen = s.explen := rfl
@[simp] theorem setRxq_buf (v : List Byte) : (s.setRxq v).buf = s.buf := rfl
@[simp] theorem setRxq_init (v : List Byte) : (s.setRxq v).init = s.init := rfl
@[simp] theorem setRxq_phase (v : List Byte) : (s.setRxq v).phase = s.phase := rfl
@[simp] theorem setRxq_rxq (v : List Byte) : (s.setRxq v).rxq = v := rfl
@[simp] theorem setRxq_ovr (v : List Byte) : (s.setRxq v).ovr = s.ovr := rfl
@[simp] theorem setRxq_onFlush (v : List Byte) : (s.setRxq v).onFlush = s.onFlush := rfl
@[simp] theorem setRxq_txq (v : List Byte) : (s.setRxq v).txq = s.txq := rfl
@[simp] theorem setRxq_dlog (v : List Byte) : (s.setRxq v).dlog = s.dlog := rfl
@[simp] theorem setRxq_flushes (v : List Byte) : (s.setRxq v).flushes = s.flushes := rfl
@[simp] theorem setRxq_disp (v : List Byte) : (s.setRxq v).disp = s.disp := rfl
@[simp] theorem setRxq_padOut (v : List Byte) : (s.setRxq v).padOut = s.padOut := rfl
@[simp] theorem setRxq_draws (v : List Byte) : (s.setRxq v).draws = s.draws := rfl
@[simp] theorem setRxq_pending (v : List Byte) : (s.setRxq v).pending = s.pending := rfl

@[simp] theorem setOvr_cfg (v : OverrunLine) : (s.setOvr v).cfg = s.cfg := rfl
@[simp] theorem setOvr_st (v : OverrunLine) : (s.setOvr v).st = s.st := rfl
@[simp] theorem setOvr_explen (v : OverrunLine) : (s.setOvr v).explen = s.explen := rfl
@[simp] theorem setOvr_buf (v : OverrunLine) : (s.setOvr v).buf = s.buf := rfl
@[simp] theorem setOvr_init (v : OverrunLine) : (s.setOvr v).init = s.init := rfl
@[simp] theorem setOvr_phase (v : OverrunLine) : (s.setOvr v).phase = s.phase := rfl
@[simp] theorem setOvr_rxq (v : OverrunLine) : (s.setOvr v).rxq = s.rxq := rfl
@[simp] theorem setOvr_ovr (v : OverrunLine) : (s.setOvr v).ovr = v := rfl
@[simp] theorem setOvr_onFlush (v : OverrunLine) : (s.setOvr v).onFlush = s.onFlush := rfl
@[simp] theorem setOvr_txq (v : OverrunLine) : (s.setOvr v).txq = s.txq := rfl
@[simp] theorem setOvr_dlog (v : OverrunLine) : (s.setOvr v).dlog = s.dlog := rfl
@[simp] theorem setOvr_flushes (v : OverrunLine) : (s.setOvr v).flushes = s.flushes := rfl
@[simp] theorem setOvr_disp (v : OverrunLine) : (s.setOvr v).disp = s.disp := rfl
@[simp] theorem setOvr_padOut (v : OverrunLine) : (s.setOvr v).padOut = s.padOut := rfl
@[simp] theorem setOvr_draws (v : OverrunLine) : (s.setOvr v).draws = s.draws := rfl
@[simp] theorem setOvr_pending (v : OverrunLine) : (s.setOvr v).pending = s.pending := rfl

@[simp] theorem setOnFlush_cfg (v : FlushReaction) : (s.setOnFlush v).cfg = s.cfg := rfl
@[simp] theorem setOnFlush_st (v : FlushReaction) : (s.setOnFlush v).st = s.st := rfl
@[simp] theorem setOnFlush_explen (v : FlushReaction) : (s.setOnFlush v).explen = s.explen := rfl
@[simp] theorem setOnFlush_buf (v : FlushReaction) : (s.setOnFlush v).buf = s.buf := rfl
@[simp] theorem setOnFlush_init (v : FlushReaction) : (s.setOnFlush v).init = s.init := rfl
@[simp] theorem setOnFlush_phase (v : FlushReaction) : (s.setOnFlush v).phase = s.phase := rfl
@[simp] theorem setOnFlush_rxq (v : FlushReaction) : (s.setOnFlush v).rxq = s.rxq := rfl
@[simp] theorem setOnFlush_ovr (v : FlushReaction) : (s.setOnFlush v).ovr = s.ovr := rfl
@[simp] theorem setOnFlush_onFlush (v : FlushReaction) : (s.setOnFlush v).onFlush = v := rfl
@[simp] theorem setOnFlush_txq (v : FlushReaction) : (s.setOnFlush v).txq = s.txq := rfl
@[simp] theorem setOnFlush_dlog (v : FlushReaction) : (s.setOnFlush v).dlog = s.dlog := rfl
@[simp] theorem setOnFlush_flushes (v : FlushReaction) : (s.setOnFlush v).flushes = s.flushes := rfl
@[simp] theorem setOnFlush_disp (v : FlushReaction) : (s.setOnFlush v).disp = s.disp := rfl
@[simp] theorem setOnFlush_padOut (v : FlushReaction) : (s.setOnFlush v).padOut = s.padOut := rfl
@[simp] theorem setOnFlush_draws (v : FlushReaction) : (s.setOnFlush v).draws = s.draws := rfl
@[simp] theorem setOnFlush_pending (v : FlushReaction) : (s.setOnFlush v).pending = s.pending := rfl

@[simp] theorem setTxq_cfg (v : List Byte) : (s.setTxq v).cfg = s.cfg := rfl
@[simp] theorem setTxq_st (v : List Byte) : (s.setTxq v).st = s.st := rfl
@[simp] theorem setTxq_explen (v : List Byte) : (s.setTxq v).explen = s.explen := rfl
@[simp] theorem setTxq_buf (v : List Byte) : (s.setTxq v).buf = s.buf := rfl
@[simp] theorem setTxq_init (v : List Byte) : (s.setTxq v).init = s.init := rfl
@[simp] theorem setTxq_phase (v : List Byte) : (s.setTxq v).phase = s.phase := rfl
@[simp] theorem setTxq_rxq (v : List Byte) : (s.setTxq v).rxq = s.rxq := rfl
@[simp] theorem setTxq_ovr (v : List Byte) : (s.setTxq v).ovr = s.ovr := rfl
@[simp] theorem setTxq_onFlush (v : List Byte) : (s.setTxq v).onFlush = s.onFlush := rfl
@[simp] theorem setTxq_txq (v : List Byte) : (s.setTxq v).txq = v := rfl
@[simp] theorem setTxq_dlog (v : List Byte) : (s.setTxq v).dlog = s.dlog := rfl
@[simp] theorem setTxq_flushes (v : List Byte) : (s.setTxq v).flushes = s.flushes := rfl
@[simp] theorem setTxq_disp (v : List Byte) : (s.setTxq v).disp = s.disp := rfl
@[simp] theorem setTxq_padOut (v : List Byte) : (s.setTxq v).padOut = s.padOut := rfl
@[simp] theorem setTxq_draws (v : List Byte) : (s.setTxq v).draws = s.draws := rfl
@[simp] theorem setTxq_pending (v : List Byte) : (s.setTxq v).pending = s.pending := rfl

@[simp] theorem setDlog_cfg (v : List HandOff) : (s.setDlog v).cfg = s.cfg := rfl
@[simp] theorem setDlog_st (v : List HandOff) : (s.setDlog v).st = s.st := rfl
@[simp] theorem setDlog_explen (v : List HandOff) : (s.setDlog v).explen = s.explen := rfl
@[simp] theorem setDlog_buf (v : List HandOff) : (s.setDlog v).buf = s.buf := rfl
@[simp] theorem setDlog_init (v : List HandOff) : (s.setDlog v).init = s.init := rfl
@[simp] theorem setDlog_phase (v : List HandOff) : (s.setDlog v).phase = s.phase := rfl
@[simp] theorem setDlog_rxq (v : List HandOff) : (s.setDlog v).rxq = s.rxq := rfl
@[simp] theorem setDlog_ovr (v : List HandOff) : (s.setDlog v).ovr = s.ovr := rfl
@[simp] theorem setDlog_onFlush (v : List HandOff) : (s.setDlog v).onFlush = s.onFlush := rfl
@[simp] theorem setDlog_txq (v : List HandOff) : (s.setDlog v).txq = s.txq := rfl
@[simp] theorem setDlog_dlog (v : List HandOff) : (s.setDlog v).dlog = v := rfl
@[simp] theorem setDlog_flushes (v : List HandOff) : (s.setDlog v).flushes = s.flushes := rfl
@[simp] theorem setDlog_disp (v : List HandOff) : (s.setDlog v).disp = s.disp := rfl
@[simp] theorem setDlog_padOut (v : List HandOff) : (s.setDlog v).padOut = s.padOut := rfl
@[simp] theorem setDlog_draws (v : List HandOff) : (s.setDlog v).draws = s.draws := rfl
@[simp] theorem setDlog_pending (v : List HandOff) : (s.setDlog v).pending = s.pending := rfl

@[simp] theorem setFlushes_cfg (v : Nat) : (s.setFlushes v).cfg = s.cfg := rfl
@[simp] theorem setFlushes_st (v : Nat) : (s.setFlushes v).st = s.st := rfl
@[simp] theorem setFlushes_explen (v : Nat) : (s.setFlushes v).explen = s.explen := rfl
@[simp] theorem setFlushes_buf (v : Nat) : (s.setFlushes v).buf = s.buf := rfl
@[simp] theorem setFlushes_init (v : Nat) : (s.setFlushes v).init = s.init := rfl
@[simp] theorem setFlushes_phase (v : Nat) : (s.setFlushes v).phase = s.phase := rfl
@[simp] theorem setFlushes_rxq (v : Nat) : (s.setFlushes v).rxq = s.rxq := rfl
@[simp] theorem setFlushes_ovr (v : Nat) : (s.setFlushes v).ovr = s.ovr := rfl
@[simp] theorem setFlushes_onFlush (v : Nat) : (s.setFlushes v).onFlush = s.onFlush := rfl
@[simp] theorem setFlushes_txq (v : Nat) : (s.setFlushes v).txq = s.txq := rfl
@[simp] theorem setFlushes_dlog (v : Nat) : (s.setFlushes v).dlog = s.dlog := rfl
@[simp] theorem setFlushes_flushes (v : Nat) : (s.setFlushes v).flushes = v := rfl
@[simp] theorem setFlushes_disp (v : Nat) : (s.setFlushes v).disp = s.disp := rfl
@[simp] theorem setFlushes_padOut (v : Nat) : (s.setFlushes v).padOut = s.padOut := rfl
@[simp] theorem setFlushes_draws (v : Nat) : (s.setFlushes v).draws = s.draws := rfl
@[simp] theorem setFlushes_pending (v : Nat) : (s.setFlushes v).pending = s.pending := rfl

@[simp] theorem setDisp_cfg (v : Dispatcher) : (s.setDisp v).cfg = s.cfg := rfl
@[simp] theorem setDisp_st (v : Dispatcher) : (s.setDisp v).st = s.st := rfl
@[simp] theorem setDisp_explen (v : Dispatcher) : (s.setDisp v).explen = s.explen := rfl
@[simp] theorem setDisp_buf (v : Dispatcher) : (s.setDisp v).buf = s.buf := rfl
@[simp] theorem setDisp_init (v : Dispatcher) : (s.setDisp v).init = s.init := rfl
@[simp] theorem setDisp_phase (v : Dispatcher) : (s.setDisp v).phase = s.phase := rfl
@[simp] theorem setDisp_rxq (v : Dispatcher) : (s.setDisp v).rxq = s.rxq := rfl
@[simp] theorem setDisp_ovr (v : Dispatcher) : (s.setDisp v).ovr = s.ovr := rfl
@[simp] theorem setDisp_onFlush (v : Dispatcher) : (s.setDisp v).onFlush = s.onFlush := rfl
@[simp] theorem setDisp_txq (v : Dispatcher) : (s.setDisp v).txq = s.txq := rfl
@[simp] theorem setDisp_dlog (v : Dispatcher) : (s.setDisp v).dlog = s.dlog := rfl
@[simp] theorem setDisp_flushes (v : Dispatcher) : (s.setDisp v).flushes = s.flushes := rfl
@[simp] theorem setDisp_disp (v : Dispatcher) : (s.setDisp v).disp = v := rfl
@[simp] theorem setDisp_padOut (v : Dispatcher) : (s.setDisp v).padOut = s.padOut := rfl
@[simp] theorem setDisp_draws (v : Dispatcher) : (s.setDisp v).draws = s.draws := rfl
@[simp] theorem setDisp_pending (v : Dispatcher) : (s.setDisp v).pending = s.pending := rfl

@[simp] theorem setPadOut_cfg (v : Option (Nat × Nat)) : (s.setPadOut v).cfg = s.cfg := rfl
@[simp] theorem setPadOut_st (v : Option (Nat × Nat)) : (s.setPadOut v).st = s.st := rfl
@[simp] theorem setPadOut_explen (v : Option (Nat × Nat)) : (s.setPadOut v).explen = s.explen := rfl
@[simp] theorem setPadOut_buf (v : Option (Nat × Nat)) : (s.setPadOut v).buf = s.buf := rfl
@[simp] theorem setPadOut_init (v : Option (Nat × Nat)) : (s.setPadOut v).init = s.init := rfl
@[simp] theorem setPadOut_phase (v : Option (Nat × Nat)) : (s.setPadOut v).phase = s.phase := rfl
@[simp] theorem setPadOut_rxq (v : Option (Nat × Nat)) : (s.setPadOut v).rxq = s.rxq := rfl
@[simp] theorem setPadOut_ovr (v : Option (Nat × Nat)) : (s.setPadOut v).ovr = s.ovr := rfl
@[simp] theorem setPadOut_onFlush (v : Option (Nat × Nat)) : (s.setPadOut v).onFlush = s.onFlush := rfl
@[simp] theorem setPadOut_txq (v : Option (Nat × Nat)) : (s.setPadOut v).txq = s.txq := rfl
@[simp] theorem setPadOut_dlog (v : Option (Nat × Nat)) : (s.setPadOut v).dlog = s.dlog := rfl
@[simp] theorem setPadOut_flushes (v : Option (Nat × Nat)) : (s.setPadOut v).flushes = s.flushes := rfl
@[simp] theorem setPadOut_disp (v : Option (Nat × Nat)) : (s.setPadOut v).disp = s.disp := rfl
@[simp] theorem setPadOut_padOut (v : Option (Nat × Nat)) : (s.setPadOut v).padOut = v := rfl
@[simp] theorem setPadOut_draws (v : Option (Nat × Nat)) : (s.setPadOut v).draws = s.draws := rfl
@[simp] theorem setPadOut_pending (v : Option (Nat × Nat)) : (s.setPadOut v).pending = s.pending := rfl

@[simp] theorem setDraws_cfg (v : Nat) : (s.setDraws v).cfg = s.cfg := rfl
@[simp] theorem setDraws_st (v : Nat) : (s.setDraws v).st = s.st := rfl
@[simp] theorem setDraws_explen (v : Nat) : (s.setDraws v).explen = s.explen := rfl
@[simp] theorem setDraws_buf (v : Nat) : (s.setDraws v).buf = s.buf := rfl
@[simp] theorem setDraws_init (v : Nat) : (s.setDraws v).init = s.init := rfl
@[simp] theorem setDraws_phase (v : Nat) : (s.setDraws v).phase = s.phase := rfl
@[simp] theorem setDraws_rxq (v : Nat) : (s.setDraws v).rxq = s.rxq := rfl
@[simp] theorem setDraws_ovr (v : Nat) : (s.setDraws v).ovr = s.ovr := rfl
@[simp] theorem setDraws_onFlush (v : Nat) : (s.setDraws v).onFlush = s.onFlush := rfl
@[simp] theorem setDraws_txq (v : Nat) : (s.setDraws v).txq = s.txq := rfl
@[simp] theorem setDraws_dlog (v : Nat) : (s.setDraws v).dlog = s.dlog := rfl
@[simp] theorem setDraws_flushes (v : Nat) : (s.setDraws v).flushes = s.flushes := rfl
@[simp] theorem setDraws_disp (v : Nat) : (s.setDraws v).disp = s.disp := rfl
@[simp] theorem setDraws_padOut (v : Nat) : (s.setDraws v).padOut = s.padOut := rfl
@[simp] theorem setDraws_draws (v : Nat) : (s.setDraws v).draws = v := rfl
@[simp] theorem setDraws_pending (v : Nat) : (s.setDraws v).pending = s.pending := rfl

@[simp] theorem setPending_cfg (v : List Pending) : (s.setPending v).cfg = s.cfg := rfl
@[simp] theorem setPending_st (v : List Pending) : (s.setPending v).st = s.st := rfl
@[simp] theorem setPending_explen (v : List Pending) : (s.setPending v).explen = s.explen := rfl
@[simp] theorem setPending_buf (v : List Pending) : (s.setPending v).buf = s.buf := rfl
@[simp] theorem setPending_init (v : List Pending) : (s.setPending v).init = s.init := rfl
@[simp] theorem setPending_phase (v : List Pending) : (s.setPending v).phase = s.phase := rfl
@[simp] theorem setPending_rxq (v : List Pending) : (s.setPending v).rxq = s.rxq := rfl
@[simp] theorem setPending_ovr (v : List Pending) : (s.setPending v).ovr = s.ovr := rfl
@[simp] theorem setPending_onFlush (v : List Pending) : (s.setPending v).onFlush = s.onFlush := rfl
@[simp] theorem setPending_txq (v : List Pending) : (s.setPending v).txq = s.txq := rfl
@[simp] theorem setPending_dlog (v : List Pending) : (s.setPending v).dlog = s.dlog := rfl
@[simp] theorem setPending_flushes (v : List Pending) : (s.setPending v).flushes = s.flushes := rfl
@[simp] theorem setPending_disp (v : List Pending) : (s.setPending v).disp = s.disp := rfl
@[simp] theorem setPending_padOut (v : List Pending) : (s.setPending v).padOut = s.padOut := rfl
@[simp] theorem setPending_draws (v : List Pending) : (s.setPending v).draws = s.draws := rfl
@[simp] theorem setPending_pending (v : List Pending) : (s.setPending v).pending = v := rfl

end Sys2Proof.Machine.State
end

