-- ==== Sys2Proof/Laws/Ops.lean ====
section
/-!
SUPPORT. One lemma for each shared operation that says once what it does.
-/

namespace Sys2Proof.Machine

namespace State

theorem rxRead_cons (s : State) (b : Byte) (t : List Byte) (h : s.rxq = b :: t) :
    s.rxRead = .ok (b, s.setRxq t) := by
  simp [rxRead, h]

theorem bufWrite_within (s : State) (i : Nat) (b : Byte) (h : i < s.cfg.maxBuffer) :
    s.bufWrite i b = .ok (s.setBuf (s.buf.write i b)) := by
  simp [bufWrite, h]

theorem bufRead_within (s : State) (i : Nat) (b : Byte) (h : i < s.cfg.maxBuffer)
    (hb : s.buf.read i = some b) : s.bufRead i = .ok b := by
  simp [bufRead, h, hb]

/-- The loop of RX.BODY moves `count` bytes from the transport to `buf` and touches nothing else. -/
theorem receiveBody_eq (count i : Nat) (s : State) (hq : count ≤ s.rxq.length)
    (hb : i + count ≤ s.cfg.maxBuffer) :
    receiveBody i count s =
      .ok { s with rxq := s.rxq.drop count, buf := Memory.writeAll i (s.rxq.take count) s.buf } := by
  induction count generalizing i s with
  | zero => simp [receiveBody, Memory.writeAll]
  | succ n ih =>
    cases hs : s.rxq with
    | nil => simp [hs] at hq
    | cons b t =>
      simp only [receiveBody, rxRead_cons s b t hs]
      rw [bufWrite_within _ _ _ (by simp only [setRxq_cfg]; omega)]
      simp only
      rw [ih (i + 1) _ (by simp [hs] at hq ⊢; omega) (by simp only [setBuf_cfg, setRxq_cfg]; omega)]
      simp [setBuf, setRxq, Memory.writeAll]

/-- A copy of `buf` is what was written there. -/
theorem bodyBytes_eq (s : State) (bs : List Byte) (i : Nat) (hb : i + bs.length ≤ s.cfg.maxBuffer)
    (hr : ∀ k, k < bs.length → s.buf.read (i + k) = bs[k]?) :
    s.bodyBytes i bs.length = .ok bs := by
  induction bs generalizing i with
  | nil => rfl
  | cons b t ih =>
    simp only [List.length_cons] at hb hr ⊢
    simp only [bodyBytes]
    rw [bufRead_within s i b (by omega) (by simpa using hr 0 (by omega))]
    simp only
    rw [ih (i + 1) (by omega) (fun k hk => by
      have := hr (k + 1) (by omega)
      simpa [Nat.add_assoc, Nat.add_comm 1 k] using this)]

/-- 20/R35: after a flush the receive FIFO is a suffix of what it was, the event is logged, and only the
transport's side of the state has changed. -/
theorem flush_spec (s : State) :
    ∃ k line n, s.flush =
      { s with flushes := s.flushes + 1, rxq := s.rxq.drop k, ovr := line, draws := n } := by
  simp only [flush]
  split
  · exact ⟨_, _, _, rfl⟩
  · rename_i dropRx clearOvr h
    cases dropRx <;> cases clearOvr
    · exact ⟨0, s.ovr, s.draws, by simp [setFlushes]⟩
    · exact ⟨0, .held false, s.draws, by simp [setFlushes, setOvr]⟩
    · exact ⟨s.rxq.length, s.ovr, s.draws, by simp [setFlushes, setRxq]⟩
    · exact ⟨s.rxq.length, .held false, s.draws, by simp [setFlushes, setRxq, setOvr]⟩

theorem setTxq_setTxq (s : State) (a b : List Byte) : (s.setTxq a).setTxq b = s.setTxq b := rfl

theorem setTxq_self (s : State) : s.setTxq s.txq = s := rfl

end State

/-- 40/R76, R81: with an accepted length and its bytes there, RX.BODY's pseudocode runs through. -/
theorem receiveFrame_eq (s : State) (cmd : Byte) (rest : List Byte) (hq : s.rxq = cmd :: rest)
    (hlen : s.explen.toNat - 1 ≤ rest.length) (hmax : s.explen.toNat - 1 ≤ s.cfg.maxBuffer) :
    receiveFrame s =
      .ok { s with
        rxq := rest.drop (s.explen.toNat - 1)
        init := true
        buf := Memory.writeAll 0 (rest.take (s.explen.toNat - 1)) s.buf
        dlog := s.dlog ++ [⟨cmd, rest.take (s.explen.toNat - 1)⟩]
        st := .idle } := by
  have hl : (rest.take (s.explen.toNat - 1)).length = s.explen.toNat - 1 := by simp; omega
  simp only [receiveFrame, State.rxRead_cons s cmd rest hq]
  rw [State.receiveBody_eq _ _ _ (by simpa [State.markInitialized] using hlen)
    (by simpa [State.markInitialized] using hmax)]
  simp only [State.markInitialized, State.setInit, State.setRxq]
  generalize hbs : rest.take (s.explen.toNat - 1) = bs at hl ⊢
  have h := State.bodyBytes_eq
    { s with rxq := rest.drop (s.explen.toNat - 1), init := true, buf := Memory.writeAll 0 bs s.buf } bs 0
    (by simp only; omega) (fun k hk => Memory.read_writeAll_same bs 0 k s.buf hk)
  rw [hl] at h
  rw [h]
  rfl

/-- The one-byte operations, where they are enabled. -/
theorem rxByteArm_next (st : RxState) (inClass : Byte → Bool) (effect : Byte → State → State) (s : State)
    (b : Byte) (t : List Byte) (hs : s.scanning = true) (hst : s.st = st) (hq : s.rxq = b :: t)
    (hc : inClass b = true) :
    rxByteArm st inClass effect s = .next ((effect b (s.setRxq t)).setPhase .scan) := by
  have ha : 1 ≤ s.rxAvail := by simp [State.rxAvail, hq]
  simp [rxByteArm, hs, hst, ha, State.rxRead_cons s b t hq, hc]

/-- The one-byte operations answer a next state only where they are enabled. -/
theorem rxByteArm_inv (st : RxState) (inClass : Byte → Bool) (effect : Byte → State → State) (s t : State)
    (h : rxByteArm st inClass effect s = .next t) :
    ∃ b rest, s.scanning = true ∧ s.st = st ∧ s.rxq = b :: rest ∧ inClass b = true ∧
      t = (effect b (s.setRxq rest)).setPhase .scan := by
  simp only [rxByteArm] at h
  split at h
  · rename_i hc
    cases hq : s.rxq with
    | nil => simp [State.rxAvail, hq] at hc
    | cons b rest =>
      rw [State.rxRead_cons s b rest hq] at h
      simp only at h
      split at h
      · rename_i hb
        exact ⟨b, rest, hc.1, hc.2.1, rfl, hb, by simpa using h.symm⟩
      · simp at h
  · simp at h

/-- 41/R93: the bytes of a present source go out in order. -/
theorem sendFrom_eq (src : Source) (count i : Nat) (s : State) (h : i + count ≤ src.bytes.length) :
    sendFrom src i count s = .ok (s.setTxq (s.txq ++ (src.bytes.drop i).take count)) := by
  induction count generalizing i s with
  | zero => simp [sendFrom, State.setTxq_self]
  | succ n ih =>
    have hi : i < src.bytes.length := by omega
    have hf : fetch (some src) i = some src.bytes[i] := by
      obtain ⟨sp, bs⟩ := src
      cases sp <;> simp [fetch, hi]
    simp only [sendFrom, hf]
    rw [ih (i + 1) _ (by omega), List.drop_eq_getElem_cons hi, List.take_succ_cons]
    simp [State.txWrite, State.setTxq]

theorem sendPadding_eq (pad : Byte) (count : Nat) (s : State) :
    sendPadding pad count s = s.setTxq (s.txq ++ List.replicate count pad) := by
  induction count generalizing s with
  | zero => simp [sendPadding, State.setTxq_self]
  | succ n ih => simp [sendPadding, ih, State.txWrite, State.setTxq, List.replicate_succ]

theorem sendHeader_eq (addr : Addr) (cmd : WireCommand) (size : Nat) (s : State) :
    sendHeader addr cmd size s = s.setTxq (s.txq ++ headerBytes s.cfg addr cmd size) := by
  simp [sendHeader, State.txWrite, State.setTxq, headerBytes]

/-- 41/R93, R98: a present payload within the contract goes out as one write-request frame. -/
theorem sendData_eq (addr : Addr) (src : Source) (s : State) (h : src.bytes.length ≤ 252) :
    sendData addr src s = .ok (s.setTxq (s.txq ++ addressedBytes s.cfg addr (.data src.bytes))) := by
  have h' : ¬ Config.maxPayload < src.bytes.length := by simp [Config.maxPayload]; omega
  simp only [sendData, h', if_false]
  rw [sendFrom_eq _ _ _ _ (by omega), sendHeader_eq]
  simp [State.setTxq, addressedBytes, AddressedPayload.command, AddressedPayload.bytes]

/-- 41/R95, R98: a present text with a width within the contract goes out as one write-request frame whose
data is the string field. -/
theorem sendString_eq (addr : Addr) (src : Source) (width : Nat) (aL aR sp : Bool) (s : State)
    (h : width ≤ 252) :
    sendString addr src width aL aR sp s =
      .ok (s.setTxq (s.txq ++ addressedBytes s.cfg addr (.data (stringField src.bytes width aL aR sp)))) := by
  have h' : ¬ Config.maxPayload < width := by simp [Config.maxPayload]; omega
  have hl := stringField_length src.bytes width aL aR sp
  simp only [sendString, h', if_false]
  by_cases hw : width ≤ src.bytes.length
  · rw [if_pos hw, sendFrom_eq _ _ _ _ (by omega), sendHeader_eq]
    simp only [stringField, if_pos hw] at hl ⊢
    simp [State.setTxq, addressedBytes, AddressedPayload.command, AddressedPayload.bytes, hw]
  · rw [if_neg hw]
    rw [sendFrom_eq _ _ _ _ (by omega)]
    simp only [stringField, if_neg hw] at hl ⊢
    simp only [sendHeader_eq, sendPadding_eq, addressedBytes, AddressedPayload.command,
      AddressedPayload.bytes, hl]
    simp [State.setTxq]

/-- 41/R98: beyond the contract the operation is refused. -/
theorem sendString_refused (addr : Addr) (src : Source) (width : Nat) (aL aR sp : Bool) (s : State)
    (h : 252 < width) : sendString addr src width aL aR sp s = .error (.refusal .sizeContract) := by
  simp [sendString, Config.maxPayload, h]

theorem sendData_refused (addr : Addr) (src : Source) (s : State) (h : 252 < src.bytes.length) :
    sendData addr src s = .error (.refusal .sizeContract) := by
  simp [sendData, Config.maxPayload, h]

end Sys2Proof.Machine
end

