-- ==== Sys2Proof/Laws/Step.lean ====
section
/-!
SUPPORT. What a step is: the block's own step of an invocation in progress, or the first pending action.
-/

namespace Sys2Proof.Machine

/-- While a SERVICE is in progress and nothing marked `within` is first in line, the block moves. -/
theorem fetch_of_blockMoves (s : State) (h : s.blockMoves) : s.fetch = s.blockStep := by
  obtain ⟨hs, hp⟩ := h
  simp only [State.fetch]
  cases hq : s.pending with
  | nil => simp [hs]
  | cons p rest =>
    have : p.within = false := hp p (by simp [hq])
    simp [hs, this]

/-- Otherwise the first pending action happens. -/
theorem fetch_of_pending (s : State) (p : Pending) (rest : List Pending) (hp : s.pending = p :: rest)
    (h : s.inService = false ∨ p.within = true) : s.fetch = (s.setPending rest).perform p.act := by
  simp only [State.fetch, hp]
  rcases h with h | h <;> simp [h]

theorem step_of_run (s t : State) (i : Instr) (h : s.fetch = .run i t) : step s = exec i t := by
  simp [step, h]

theorem step_of_become (s t : State) (h : s.fetch = .become t) : step s = .next t := by
  simp [step, h]

theorem step_of_stop (s : State) (r : Refusal) (h : s.fetch = .stop r) : step s = .refused r := by
  simp [step, h]

/-- The block's own step never stops on a word. -/
theorem blockStep_cases (s : State) :
    (s.phase = .outside ∧ s.blockStep = .become s) ∨
    (s.phase = .entry ∧ s.overrunEnabled = true ∧ s.blockStep = .run .rxOverrun s) ∨
    (s.phase = .entry ∧ s.overrunEnabled = false ∧ s.blockStep = .become s.passOverrunCheck) ∨
    (s.scanning = true ∧ s.rxq = [] ∧ s.blockStep = .become s.endService) ∨
    (s.scanning = true ∧ ∃ i rest, decodeRx s.cfg s.st s.explen s.rxq = .ok (i, rest) ∧
      s.blockStep = .run i s) := by
  have hscan : s.scanning = true → s.rxq = [] → decodeRx s.cfg s.st s.explen s.rxq = .error .noByte := by
    intro _ h; simp [h, decodeRx]
  have hsome : ∀ b t, s.rxq = b :: t → ∃ i rest, decodeRx s.cfg s.st s.explen s.rxq = .ok (i, rest) := by
    intro b t h
    rw [h]
    cases s.st <;> simp only [decodeRx] <;> split <;> exact ⟨_, _, rfl⟩
  cases hph : s.phase with
  | outside => exact .inl ⟨rfl, by simp [State.blockStep, hph]⟩
  | entry =>
    cases ho : s.overrunEnabled with
    | true => exact .inr (.inl ⟨rfl, rfl, by simp [State.blockStep, hph, ho]⟩)
    | false => exact .inr (.inr (.inl ⟨rfl, rfl, by simp [State.blockStep, hph, ho]⟩))
  | scan =>
    have hsc : s.scanning = true := by simp [State.scanning, hph]
    cases hq : s.rxq with
    | nil => exact .inr (.inr (.inr (.inl ⟨hsc, rfl, by
        simp [State.blockStep, hph, decode, hscan hsc hq]⟩)))
    | cons b t =>
      obtain ⟨i, rest, h⟩ := hsome b t hq
      exact .inr (.inr (.inr (.inr ⟨hsc, i, rest, by rw [← hq]; exact h, by
        simp [State.blockStep, hph, decode, h]⟩)))
  | handOff =>
    have hsc : s.scanning = true := by simp [State.scanning, hph]
    cases hq : s.rxq with
    | nil => exact .inr (.inr (.inr (.inl ⟨hsc, rfl, by
        simp [State.blockStep, hph, decode, hscan hsc hq]⟩)))
    | cons b t =>
      obtain ⟨i, rest, h⟩ := hsome b t hq
      exact .inr (.inr (.inr (.inr ⟨hsc, i, rest, by rw [← hq]; exact h, by
        simp [State.blockStep, hph, decode, h]⟩)))

end Sys2Proof.Machine
end

