-- ==== Sys2Proof/Laws/Exec.lean ====
section
/-!
SUPPORT. What exec and step can do, said once: every next state is one of the effects below.
-/

namespace Sys2Proof.Machine

/-- Where exec answers a next state, from `s` to `t`. -/
inductive Effect (s : State) : State → Prop where
  /-- A TX operation or an outgoing frame. -/
  | sent (bytes : List Byte) : s.txAllowed = true → Effect s { s with txq := s.txq ++ bytes }
  /-- Bytes from the display. -/
  | arrived (bytes : List Byte) : Effect s { s with rxq := s.rxq ++ bytes }
  /-- A stand-alone PADSPLIT. -/
  | padded (v : Option (Nat × Nat)) : Effect s { s with padOut := v }
  /-- SERVICE. -/
  | began : s.phase = .outside → Effect s { s with phase := .entry }
  /-- RX.OVERRUN. -/
  | overran (line : OverrunLine) (n : Nat) : s.phase = .entry → s.overrunEnabled = true →
      Effect s { s with st := .idle, flushes := s.flushes + 1, phase := .scan, ovr := line, draws := n }
  /-- RX.IDLE_h1. -/
  | idleH1 (b : Byte) (rest : List Byte) : s.scanning = true → s.st = .idle → s.rxq = b :: rest →
      b = s.cfg.h1 → Effect s { s with rxq := rest, st := .header1Seen, phase := .scan }
  /-- RX.IDLE_drop. -/
  | idleDrop (b : Byte) (rest : List Byte) : s.scanning = true → s.st = .idle → s.rxq = b :: rest →
      b ≠ s.cfg.h1 → Effect s { s with rxq := rest, st := .idle, phase := .scan }
  /-- RX.H1SEEN_h2. -/
  | h1SeenH2 (b : Byte) (rest : List Byte) : s.scanning = true → s.st = .header1Seen → s.rxq = b :: rest →
      b = s.cfg.h2 → Effect s { s with rxq := rest, st := .header2Seen, phase := .scan }
  /-- RX.H1SEEN_miss. -/
  | h1SeenMiss (b : Byte) (rest : List Byte) : s.scanning = true → s.st = .header1Seen → s.rxq = b :: rest →
      b ≠ s.cfg.h2 → Effect s { s with rxq := rest, st := .idle, phase := .scan }
  /-- RX.H2SEEN_accept. -/
  | accepted (len : Byte) (rest : List Byte) : s.scanning = true → s.st = .header2Seen → s.rxq = len :: rest →
      legalLength s.cfg len = true →
      Effect s { s with rxq := rest, st := .awaitingBody, explen := len, phase := .scan }
  /-- RX.H2SEEN_reject. -/
  | rejected (len : Byte) (rest : List Byte) : s.scanning = true → s.st = .header2Seen → s.rxq = len :: rest →
      legalLength s.cfg len = false → Effect s { s with rxq := rest, st := .idle, phase := .scan }
  /-- RX.HOLD. -/
  | heldBack : s.scanning = true → s.held → Effect s { s with phase := .outside }
  /-- RX.BODY. -/
  | handedOff (cmd : Byte) (body rest : List Byte) : s.scanning = true → s.st = .awaitingBody →
      s.rxq = cmd :: body ++ rest → body.length + 1 = s.explen.toNat → body.length ≤ s.cfg.maxBuffer →
      Effect s { s with
        rxq := rest, st := .idle, init := true, dlog := s.dlog ++ [⟨cmd, body⟩],
        buf := Memory.writeAll 0 body s.buf, phase := .handOff }

theorem execRxOverrun_effect (s t : State) (h : execRxOverrun s = .next t) : Effect s t := by
  simp only [execRxOverrun] at h
  split at h
  · rename_i hc
    obtain ⟨k, line, n, hf⟩ := State.flush_spec s.abortFrame.advanceDraw
    rw [hf] at h
    have hq : s.rxq = [] := by
      have := hc.2
      simp only [State.overrunEnabled, Bool.and_eq_true, List.isEmpty_iff] at this
      exact this.2
    have e := Effect.overran line n hc.1 hc.2
    simp only [State.abortFrame, State.advanceDraw, State.setSt, State.setDraws, State.setPhase, hq,
      List.drop_nil, Host.Outcome.next.injEq] at h
    rw [← hq] at h
    exact h ▸ e
  · simp at h

theorem receiveBody_room (count i : Nat) (s t : State) (h : State.receiveBody i count s = .ok t) :
    count = 0 ∨ i + count ≤ s.cfg.maxBuffer := by
  induction count generalizing i s with
  | zero => exact .inl rfl
  | succ n ih =>
    right
    simp only [State.receiveBody] at h
    cases hq : s.rxq with
    | nil => simp [State.rxRead, hq] at h
    | cons b rest =>
      rw [State.rxRead_cons s b rest hq] at h
      simp only at h
      by_cases hi : i < s.cfg.maxBuffer
      · rw [State.bufWrite_within _ _ _ (by simpa using hi)] at h
        have := ih _ _ h
        simp only [State.setBuf_cfg, State.setRxq_cfg] at this
        omega
      · simp [State.bufWrite, hi] at h

/-- RX.BODY answers a next state only where its operands are the bytes it consumes and `buf` has room. -/
theorem execRxBody_inv (cmd : Byte) (body : List Byte) (s t : State) (h : execRxBody cmd body s = .next t) :
    ∃ rest, s.scanning = true ∧ s.st = .awaitingBody ∧ s.rxq = cmd :: body ++ rest ∧
      body.length + 1 = s.explen.toNat ∧ body.length ≤ s.cfg.maxBuffer ∧
      t = { s with
        rxq := rest, st := .idle, init := true, dlog := s.dlog ++ [⟨cmd, body⟩],
        buf := Memory.writeAll 0 body s.buf, phase := .handOff } := by
  simp only [execRxBody] at h
  split at h
  · rename_i hc
    obtain ⟨hs, hst, hav, htake⟩ := hc
    have hq : s.rxq = cmd :: body ++ s.rxq.drop s.explen.toNat := by
      conv_lhs => rw [← List.take_append_drop s.explen.toNat s.rxq, htake]
    have hlen : body.length + 1 = s.explen.toNat := by
      have := congrArg List.length htake
      simp only [List.length_take, List.length_cons, State.rxAvail] at this hav
      omega
    generalize s.rxq.drop s.explen.toNat = rest at hq
    have e : s.explen.toNat - 1 = body.length := by omega
    have hroom : s.explen.toNat - 1 ≤ s.cfg.maxBuffer := by
      simp only [receiveFrame, State.rxRead_cons s cmd (body ++ rest) (by simpa using hq)] at h
      cases hb : State.receiveBody 0 (s.explen.toNat - 1) (s.setRxq (body ++ rest)).markInitialized with
      | error e => rw [hb] at h; cases e <;> simp [Result.ofExcept] at h
      | ok u =>
        have := receiveBody_room _ _ _ _ hb
        simp only [State.markInitialized, State.setInit_cfg, State.setRxq_cfg] at this
        omega
    rw [receiveFrame_eq s cmd (body ++ rest) (by simpa using hq) (by simp; omega) hroom] at h
    simp only [e, List.take_left', List.drop_left', State.setPhase, Host.Outcome.next.injEq] at h
    exact ⟨rest, hs, hst, hq, hlen, by omega, h.symm⟩
  · simp at h

theorem execRxBody_effect (cmd : Byte) (body : List Byte) (s t : State)
    (h : execRxBody cmd body s = .next t) : Effect s t := by
  obtain ⟨rest, hs, hst, hq, hlen, hroom, rfl⟩ := execRxBody_inv cmd body s t h
  exact .handedOff cmd body rest hs hst hq hlen hroom

theorem txOperation_effect (send : State → Except Stop State) (s t : State)
    (h : txOperation send s = .next t) : s.txAllowed = true ∧ send s = .ok t := by
  simp only [txOperation] at h
  split at h
  · rename_i ha
    cases hs : send s with
    | ok u => simp [hs, Result.ofExcept] at h; exact ⟨ha, by rw [h]⟩
    | error e => cases e <;> simp [hs, Result.ofExcept] at h
  · simp at h

theorem sendData_sends (addr : Addr) (src : Source) (s t : State) (h : sendData addr src s = .ok t) :
    t = { s with txq := s.txq ++ addressedBytes s.cfg addr (.data src.bytes) } := by
  by_cases hl : src.bytes.length ≤ 252
  · rw [sendData_eq addr src s hl] at h
    simpa [State.setTxq] using h.symm
  · rw [sendData_refused addr src s (by omega)] at h
    simp at h

theorem sendString_sends (addr : Addr) (src : Source) (width : Nat) (aL aR sp : Bool) (s t : State)
    (h : sendString addr src width aL aR sp s = .ok t) :
    t = { s with
      txq := s.txq ++ addressedBytes s.cfg addr (.data (stringField src.bytes width aL aR sp)) } := by
  by_cases hl : width ≤ 252
  · rw [sendString_eq addr src width aL aR sp s hl] at h
    simpa [State.setTxq] using h.symm
  · rw [sendString_refused addr src width aL aR sp s (by omega)] at h
    simp at h

theorem sendDatagram_effect (addr : Addr) (p : AddressedPayload) (s t : State)
    (h : sendDatagram addr p s = .next t) : Effect s t := by
  obtain ⟨ha, hs⟩ := txOperation_effect _ _ _ h
  split at hs
  · simp at hs
  · simp only [State.setTxq, Except.ok.injEq] at hs
    exact hs ▸ Effect.sent _ ha

theorem receiveDatagram_effect (cmd : Byte) (body : List Byte) (s t : State)
    (h : receiveDatagram cmd body s = .next t) : Effect s t := by
  simp only [receiveDatagram] at h
  split at h
  · simp only [State.wireAppend, State.setRxq, Host.Outcome.next.injEq] at h
    exact h ▸ Effect.arrived _
  · simp at h

/-- A TX write with an optional payload. -/
theorem optional_effect (payload : Option (List Byte)) (send : List Byte → State → Except Stop State)
    (bytes : List Byte → List Byte) (s t : State)
    (hsend : ∀ d t, send d s = .ok t → t = { s with txq := s.txq ++ bytes d })
    (h : txOperation (fun s => match payload with | none => .ok s | some d => send d s) s = .next t) :
    Effect s t := by
  obtain ⟨ha, hs⟩ := txOperation_effect _ _ _ h
  cases payload with
  | none =>
    simp only [Except.ok.injEq] at hs
    have := Effect.sent (s := s) [] ha
    simp only [List.append_nil] at this
    exact hs ▸ this
  | some d => exact hsend d t hs ▸ Effect.sent _ ha

/-- Every next state of exec is one of the effects. -/
theorem exec_effect (i : Instr) (s t : State) (h : exec i s = .next t) : Effect s t := by
  cases i with
  | service =>
    simp only [exec, execService] at h
    split at h
    · simp at h
    · rename_i hs
      simp only [State.inService, decide_eq_true_eq, not_not] at hs
      simp only [State.beginService, State.setPhase, Host.Outcome.next.injEq] at h
      exact h ▸ Effect.began hs
  | rxOverrun => exact execRxOverrun_effect s t h
  | rxIdleH1 =>
    obtain ⟨b, rest, h1, h2, h3, h4, rfl⟩ := rxByteArm_inv _ _ _ _ _ h
    exact Effect.idleH1 b rest h1 h2 h3 (by simpa using h4)
  | rxIdleDrop x =>
    obtain ⟨b, rest, h1, h2, h3, h4, rfl⟩ := rxByteArm_inv _ _ _ _ _ h
    simp only [decide_eq_true_eq] at h4
    exact Effect.idleDrop b rest h1 h2 h3 h4.2
  | rxH1SeenH2 =>
    obtain ⟨b, rest, h1, h2, h3, h4, rfl⟩ := rxByteArm_inv _ _ _ _ _ h
    exact Effect.h1SeenH2 b rest h1 h2 h3 (by simpa using h4)
  | rxH1SeenMiss x =>
    obtain ⟨b, rest, h1, h2, h3, h4, rfl⟩ := rxByteArm_inv _ _ _ _ _ h
    simp only [decide_eq_true_eq] at h4
    exact Effect.h1SeenMiss b rest h1 h2 h3 h4.2
  | rxH2SeenAccept x =>
    obtain ⟨b, rest, h1, h2, h3, h4, rfl⟩ := rxByteArm_inv _ _ _ _ _ h
    simp only [Bool.and_eq_true] at h4
    exact Effect.accepted b rest h1 h2 h3 h4.2
  | rxH2SeenReject x =>
    obtain ⟨b, rest, h1, h2, h3, h4, rfl⟩ := rxByteArm_inv _ _ _ _ _ h
    simp only [Bool.and_eq_true, Bool.not_eq_true'] at h4
    exact Effect.rejected b rest h1 h2 h3 h4.2
  | rxHold =>
    simp only [exec, execRxHold] at h
    split at h
    · rename_i hc
      simp only [State.endService, State.setPhase, Host.Outcome.next.injEq] at h
      exact h ▸ Effect.heldBack hc.1 ⟨hc.2.1, hc.2.2.1, hc.2.2.2⟩
    · simp at h
  | rxBody cmd body => exact execRxBody_effect cmd body s t h
  | txHeader addr cmd size => simp [exec, execTxHeader] at h
  | txRead addr n =>
    simp only [exec, execTxRead] at h
    obtain ⟨ha, hs⟩ := txOperation_effect _ _ _ h
    simp only [sendHeader_eq, State.txWrite, State.setTxq, List.append_assoc, Except.ok.injEq] at hs
    exact hs ▸ Effect.sent _ ha
  | txWrite addr d =>
    simp only [exec, execTxWrite] at h
    exact optional_effect d (fun d => sendData addr ⟨.ram, d⟩)
      (fun d => addressedBytes s.cfg addr (.data d)) s t
      (fun d t ht => sendData_sends addr ⟨.ram, d⟩ s t ht) h
  | txWritestr addr d width aL aR sp =>
    simp only [exec, execTxWritestr] at h
    exact optional_effect d (fun d => sendString addr ⟨.ram, d⟩ width aL aR sp)
      (fun d => addressedBytes s.cfg addr (.data (stringField d width aL aR sp))) s t
      (fun d t ht => sendString_sends addr ⟨.ram, d⟩ width aL aR sp s t ht) h
  | txWritestrRom addr d width aL aR sp =>
    simp only [exec, execTxWritestrRom] at h
    exact optional_effect d (fun d => sendString addr ⟨.rom, d⟩ width aL aR sp)
      (fun d => addressedBytes s.cfg addr (.data (stringField d width aL aR sp))) s t
      (fun d t ht => sendString_sends addr ⟨.rom, d⟩ width aL aR sp s t ht) h
  | padsplit len width aL aR =>
    simp only [exec, execPadsplit] at h
    split at h
    · simp only [State.setPadOut, Host.Outcome.next.injEq] at h
      exact h ▸ Effect.padded _
    · simp at h
  | writevar => simp only [exec, execWritevar, Host.Outcome.next.injEq] at h; exact h ▸ Effect.arrived _
  | readvar => simp only [exec, execReadvar, Host.Outcome.next.injEq] at h; exact h ▸ Effect.arrived _
  | frame cmd body => exact receiveDatagram_effect _ _ _ _ h
  | frameAddressed addr p => exact sendDatagram_effect _ _ _ _ h
  | frameReadRequest addr n => exact sendDatagram_effect _ _ _ _ h
  | frameWriteRequest addr d => exact sendDatagram_effect _ _ _ _ h
  | frameReadvarReport addr w d => exact receiveDatagram_effect _ _ _ _ h
  | frameWriteAck => exact receiveDatagram_effect WireCommand.writevar.code ackBody s t h

/-- What a step does that runs no operation. -/
inductive EnvEffect (s : State) : State → Prop where
  /-- Nothing to do. -/
  | stay : EnvEffect s s
  /-- The wire side appends. -/
  | pushed (bytes : List Byte) : EnvEffect s { s with rxq := s.rxq ++ bytes }
  /-- The environment sets the overrun line. -/
  | lineSet (line : OverrunLine) : EnvEffect s { s with ovr := line }
  /-- The environment sets its reaction to `flush()`. -/
  | reactionSet (r : FlushReaction) : EnvEffect s { s with onFlush := r }
  /-- The dispatcher takes a hand-off. -/
  | dispatched (d : Dispatcher) (n : Nat) : s.disp.seen < s.dlog.length → d.seen = s.disp.seen + 1 →
      EnvEffect s { s with disp := d, draws := n }
  /-- The overrun check finds nothing. -/
  | checked : s.phase = .entry → s.overrunEnabled = false →
      EnvEffect s { s with phase := .scan, draws := s.draws + 1 }
  /-- SERVICE returns with nothing left to read. -/
  | returned : s.scanning = true → s.rxq = [] → EnvEffect s { s with phase := .outside }

theorem Dispatcher.record_seen (d : Dispatcher) (x : Dispatched) : (d.record x).seen = d.seen + 1 := by
  cases x <;> rfl

theorem dispatcherStep_effect (s : State) : EnvEffect s s.dispatcherStep := by
  simp only [State.dispatcherStep]
  split
  · exact .stay
  · rename_i h hh
    exact .dispatched _ _ (List.getElem?_eq_some_iff.mp hh).1 (Dispatcher.record_seen _ _)

/-- The block's own step runs an operation in the same state, or moves the invocation on. -/
theorem blockStep_effect (s : State) :
    (∃ i, s.blockStep = .run i s) ∨ ∃ t, s.blockStep = .become t ∧ EnvEffect s t := by
  rcases blockStep_cases s with ⟨_, h⟩ | ⟨_, _, h⟩ | ⟨h1, h2, h⟩ | ⟨h1, h2, h⟩ | ⟨_, i, _, _, h⟩
  · exact .inr ⟨s, h, .stay⟩
  · exact .inl ⟨_, h⟩
  · exact .inr ⟨_, h, .checked h1 h2⟩
  · exact .inr ⟨_, h, .returned h1 h2⟩
  · exact .inl ⟨i, h⟩

/-- Every next state of a step: an effect of an operation or of the environment on the state with the
pending action, if one happened, taken off the line; or a reset. -/
theorem step_effect (s t : State) (h : step s = .next t) :
    (∃ s0, (s0 = s ∨ ∃ p rest, s.pending = p :: rest ∧ s0 = { s with pending := rest }) ∧
      (s.blockMoves → s0 = s) ∧ (Effect s0 t ∨ EnvEffect s0 t)) ∨
    (∃ p rest, s.pending = p :: rest ∧ p.act = .reset ∧ ¬ s.blockMoves ∧
      t = State.engineReset { s with pending := rest }) := by
  have block : ∀ s0 : State, (match s0.blockStep with
      | .run i u => exec i u | .become u => .next u | .stop r => .refused r) = .next t →
      Effect s0 t ∨ EnvEffect s0 t := by
    intro s0 h
    rcases blockStep_effect s0 with ⟨i, hb⟩ | ⟨u, hb, he⟩
    · rw [hb] at h; exact .inl (exec_effect i s0 t h)
    · rw [hb] at h
      simp only [Host.Outcome.next.injEq] at h
      exact .inr (h ▸ he)
  by_cases hb : s.blockMoves
  · refine .inl ⟨s, .inl rfl, fun _ => rfl, ?_⟩
    simp only [step, fetch_of_blockMoves s hb] at h
    exact block s h
  · cases hp : s.pending with
    | nil =>
      have hin : s.inService = false := by
        by_contra hc
        exact hb ⟨by simpa using hc, by simp [hp]⟩
      refine .inl ⟨s, .inl rfl, fun _ => rfl, .inl ?_⟩
      simp only [step, State.fetch, hp, hin] at h
      exact exec_effect _ _ _ h
    | cons p rest =>
      have hc : s.inService = false ∨ p.within = true := by
        by_contra hc
        simp only [not_or, Bool.not_eq_false, Bool.not_eq_true] at hc
        exact hb ⟨hc.1, by simp [hp, hc.2]⟩
      simp only [step, fetch_of_pending s p rest hp hc] at h
      have left : (Effect { s with pending := rest } t ∨ EnvEffect { s with pending := rest } t) →
          ∃ s0, (s0 = s ∨ ∃ q r, p :: rest = q :: r ∧ s0 = { s with pending := r }) ∧
            (s.blockMoves → s0 = s) ∧ (Effect s0 t ∨ EnvEffect s0 t) :=
        fun e => ⟨_, .inr ⟨p, rest, rfl, rfl⟩, fun hm => absurd hm hb, e⟩
      change (match ({ s with pending := rest } : State).perform p.act with
        | .run i u => exec i u | .become u => .next u | .stop r => .refused r) = .next t at h
      cases ha : p.act with
      | op i => rw [ha] at h; exact .inl (left (.inl (exec_effect i _ t h)))
      | word bytes =>
        rw [ha] at h
        simp only [State.perform] at h
        cases hd : decodeWord s.cfg bytes with
        | ok i => simp only [hd] at h; exact .inl (left (.inl (exec_effect i _ t h)))
        | error e => simp [hd] at h
      | push bytes =>
        rw [ha] at h
        simp only [State.perform, Host.Outcome.next.injEq] at h
        exact .inl (left (.inr (h ▸ .pushed bytes)))
      | overrun line =>
        rw [ha] at h
        simp only [State.perform, Host.Outcome.next.injEq] at h
        exact .inl (left (.inr (h ▸ .lineSet line)))
      | onFlush r =>
        rw [ha] at h
        simp only [State.perform, Host.Outcome.next.injEq] at h
        exact .inl (left (.inr (h ▸ .reactionSet r)))
      | reset =>
        rw [ha] at h
        simp only [State.perform, Host.Outcome.next.injEq] at h
        exact .inr ⟨p, rest, rfl, ha, hb, h.symm⟩
      | dispatcher =>
        rw [ha] at h
        simp only [State.perform, Host.Outcome.next.injEq] at h
        exact .inl (left (.inr (h ▸ dispatcherStep_effect _)))
      | blockStep =>
        rw [ha] at h
        exact .inl (left (block _ h))

end Sys2Proof.Machine
end

