-- ==== Sys2Proof/Laws/PerInstr.lean ====
section
/-!
SUPPORT. A statement about every instruction as syntax: a well-formed one has at most 258 bytes
(41/R98: 252 + 6; a frame from the display at most MAX_BUFFER + 3, which is 258 at most).
-/

namespace Sys2Proof.Laws.WordsBounded

/-- 41/R98, 30/R50: no well-formed instruction has more than 258 bytes. -/
def Statement (i : Instr) : Prop :=
  ∀ c : Config, i.wellFormed c = true → (encode c i).length ≤ 258

/-- 00/R5. -/
theorem maxBuffer_le (c : Config) : c.maxBuffer ≤ 255 := by
  have h := c.maxBufferOver3.isLt
  unfold Config.maxBuffer
  omega

/-- 41/R98: an addressed frame within the contract. -/
theorem addressed_bounded (c : Config) (addr : Addr) (p : AddressedPayload) (h : p.bytes.length ≤ 252) :
    (addressedBytes c addr p).length ≤ 258 := by
  rw [addressedBytes_length]
  omega

/-- 30/R50: a datagram within the length field. -/
theorem frame_bounded (c : Config) (cmd : Byte) (body : List Byte) (h : body.length ≤ 254) :
    (frameBytes c cmd body).length ≤ 258 := by
  have e : (frameBytes c cmd body).length = body.length + 4 := rfl
  omega

/-- 41/R95: the field has `width` bytes. -/
theorem string_bounded (c : Config) (addr : Addr) (text : List Byte) (width : Nat) (aL aR sp : Bool)
    (h : width ≤ 252) : (addressedBytes c addr (.data (stringField text width aL aR sp))).length ≤ 258 :=
  addressed_bounded c addr _ (Nat.le_trans (Nat.le_of_eq (stringField_length text width aL aR sp)) h)

theorem legalBody_length (c : Config) (body : List Byte) (h : legalBody c body = true) : body.length ≤ 254 := by
  have hm := maxBuffer_le c
  have h2 := of_decide_eq_true ((Bool.and_eq_true _ _).mp h).2
  unfold frameLength at h2
  omega

theorem service : Statement .service := fun _ _ => Nat.zero_le _
theorem rxOverrun : Statement .rxOverrun := fun _ _ => Nat.zero_le _
theorem rxIdleH1 : Statement .rxIdleH1 := fun _ _ => (by decide : 1 ≤ 258)
theorem rxIdleDrop (b : Byte) : Statement (.rxIdleDrop b) := fun _ _ => (by decide : 1 ≤ 258)
theorem rxH1SeenH2 : Statement .rxH1SeenH2 := fun _ _ => (by decide : 1 ≤ 258)
theorem rxH1SeenMiss (b : Byte) : Statement (.rxH1SeenMiss b) := fun _ _ => (by decide : 1 ≤ 258)
theorem rxH2SeenAccept (len : Byte) : Statement (.rxH2SeenAccept len) := fun _ _ => (by decide : 1 ≤ 258)
theorem rxH2SeenReject (len : Byte) : Statement (.rxH2SeenReject len) := fun _ _ => (by decide : 1 ≤ 258)
theorem rxHold : Statement .rxHold := fun _ _ => Nat.zero_le _

theorem rxBody (cmd : Byte) (body : List Byte) : Statement (.rxBody cmd body) := fun c h =>
  Nat.le_trans (Nat.succ_le_succ (legalBody_length c body h)) (by decide : 255 ≤ 258)

theorem txHeader (addr : Addr) (cmd : WireCommand) (size : Nat) : Statement (.txHeader addr cmd size) :=
  fun _ _ => (by decide : 6 ≤ 258)

theorem txRead (addr : Addr) (n : Byte) : Statement (.txRead addr n) := fun c _ =>
  addressed_bounded c addr (.wordCount n) (by decide : 1 ≤ 252)

theorem txWrite (addr : Addr) (bytes : Option (List Byte)) : Statement (.txWrite addr bytes) := fun c h =>
  match bytes, h with
  | none, _ => Nat.zero_le _
  | some d, h => addressed_bounded c addr (.data d) (of_decide_eq_true h)

theorem txWritestr (addr : Addr) (text : Option (List Byte)) (width : Nat) (aL aR sp : Bool) :
    Statement (.txWritestr addr text width aL aR sp) := fun c h =>
  match text, h with
  | none, _ => Nat.zero_le _
  | some d, h => string_bounded c addr d width aL aR sp (of_decide_eq_true h)

theorem txWritestrRom (addr : Addr) (text : Option (List Byte)) (width : Nat) (aL aR sp : Bool) :
    Statement (.txWritestrRom addr text width aL aR sp) := fun c h =>
  match text, h with
  | none, _ => Nat.zero_le _
  | some d, h => string_bounded c addr d width aL aR sp (of_decide_eq_true h)

theorem padsplit (len width : Nat) (aL aR : Bool) : Statement (.padsplit len width aL aR) :=
  fun _ _ => Nat.zero_le _

theorem writevar : Statement .writevar := fun _ _ => (by decide : 1 ≤ 258)
theorem readvar : Statement .readvar := fun _ _ => (by decide : 1 ≤ 258)

theorem frame (cmd : Byte) (body : List Byte) : Statement (.frame cmd body) := fun c h =>
  frame_bounded c cmd body (legalBody_length c body h)

theorem frameAddressed (addr : Addr) (p : AddressedPayload) : Statement (.frameAddressed addr p) := fun c h =>
  addressed_bounded c addr p (of_decide_eq_true h)

theorem frameReadRequest (addr : Addr) (n : Byte) : Statement (.frameReadRequest addr n) := fun c _ =>
  addressed_bounded c addr (.wordCount n) (by decide : 1 ≤ 252)

theorem frameWriteRequest (addr : Addr) (d : List Byte) : Statement (.frameWriteRequest addr d) := fun c h =>
  addressed_bounded c addr (.data d) (of_decide_eq_true h)

theorem frameReadvarReport (addr : Addr) (w : Byte) (d : List Byte) :
    Statement (.frameReadvarReport addr w d) := fun c h => by
  have hm := maxBuffer_le c
  have h2 : d.length + 4 ≤ c.maxBuffer := of_decide_eq_true h
  refine frame_bounded c WireCommand.readvar.code (reportBody addr w d) ?_
  have e : (reportBody addr w d).length = d.length + 3 := rfl
  omega

theorem frameWriteAck : Statement .frameWriteAck := fun c _ =>
  frame_bounded c WireCommand.writevar.code ackBody (by decide)

end Sys2Proof.Laws.WordsBounded
end

