-- ==== Sys2Proof/Tests/Slice0.lean ====
section
/-!
SUPPORT. The model's own tests. Expected results come from spec/95 (its tables and scripts) or from the
encodings of spec/30, under the reference configuration REF of 00 section 6; each test names its source.
The witnesses at the end show for each obligation with hypotheses a state and operands that meet them.
-/

namespace Sys2Proof.Tests

open Sys2Proof Sys2Proof.Machine

/-! ### Helpers -/

/-- 00 section 6, REF: H1 = 5A, H2 = A5, MAX_BUFFER = 128, overrun indicator supported. The version
address and the two rows (a string row of size 8 at 3000, a fixed row of size 2 at 1000) are the tests' own. -/
def ref : Config where
  h1 := 0x5A#8
  h2 := 0xA5#8
  maxBufferOver3 := 125
  overrunSupported := true
  versionAddr := 0x000F#16
  vpTable := [⟨0x3000#16, 0x08#8, true, some 1⟩, ⟨0x1000#16, 0x02#8, false, some 2⟩, ⟨0x0000#16, 0#8, false, none⟩]

/-- 95 section 4.1: H1 = AA, H2 = 55, MAX_BUFFER = 3. -/
def small : Config := { ref with h1 := 0xAA#8, h2 := 0x55#8, maxBufferOver3 := 0 }

/-- 95 section 4.2: REF magic bytes, MAX_BUFFER = 255. -/
def large : Config := { ref with maxBufferOver3 := 252 }

/-- A state under REF with the overrun indicator held at 0 and everything else as after a reset. -/
def at_ (phase : ServicePhase) (st : RxState) (explen : Byte) (rxq : List Byte) : State where
  cfg := ref
  st := st
  explen := explen
  buf := []
  init := false
  phase := phase
  rxq := rxq
  ovr := .held false
  onFlush := .fixed false false
  txq := []
  dlog := []
  flushes := 0
  disp := { seen := 0, gui := 0#8, os := 0#8, calls := [] }
  padOut := none
  draws := 0
  pending := []

/-- In the byte loop. -/
def loop (st : RxState) (explen : Byte) (rxq : List Byte) : State := at_ .scan st explen rxq

/-- No operation in progress. -/
def outside (rxq : List Byte) : State := at_ .outside .idle 0#8 rxq

/-- In a hand-off. -/
def inHandOff : State := { at_ .handOff .idle 3#8 [] with dlog := [⟨0x82#8, [0x4F#8, 0x4B#8]⟩], init := true }

/-- With this first in line. -/
def withNext (s : State) (within : Bool) (a : Action) : State := { s with pending := [⟨within, a⟩] }

/-- A view of the next state, if there is one. -/
def seen {α : Type} (r : Host.Outcome State Fault Refusal) (view : State → α) : Option α :=
  match r with
  | .next t => some (view t)
  | .fault _ => none
  | .refused _ => none

/-- The refusal, if it is one. -/
def refusal (r : Host.Outcome State Fault Refusal) : Option Refusal :=
  match r with
  | .refused e => some e
  | .next _ => none
  | .fault _ => none

/-- What decoding answers, if it answers. -/
def read (c : Config) (at_ : DecodeContext) (bs : List Byte) : Option (Instr × List Byte) :=
  match decode c at_ bs with
  | .ok r => some r
  | .error _ => none

/-- What a word standing alone decodes to. -/
def word (c : Config) (bs : List Byte) : Option Instr :=
  match decodeWord c bs with
  | .ok i => some i
  | .error _ => none

/-- Why bytes do not decode. -/
def why (c : Config) (at_ : DecodeContext) (bs : List Byte) : Option DecodeError :=
  match decode c at_ bs with
  | .ok _ => none
  | .error e => some e

/-! ### Well-formedness: an ill-formed term for each check, and the boundary beside it -/

theorem test_wf_idle_drop : (Instr.rxIdleDrop 0x5A#8).wellFormed ref = false ∧
    (Instr.rxIdleDrop 0x59#8).wellFormed ref = true := by decide
theorem test_wf_h1seen_miss : (Instr.rxH1SeenMiss 0xA5#8).wellFormed ref = false ∧
    (Instr.rxH1SeenMiss 0x5A#8).wellFormed ref = true := by decide
theorem test_wf_accept : (Instr.rxH2SeenAccept 0x02#8).wellFormed ref = false ∧
    (Instr.rxH2SeenAccept 0x81#8).wellFormed ref = false ∧
    (Instr.rxH2SeenAccept 0x03#8).wellFormed ref = true ∧
    (Instr.rxH2SeenAccept 0x80#8).wellFormed ref = true := by decide
theorem test_wf_reject : (Instr.rxH2SeenReject 0x03#8).wellFormed ref = false ∧
    (Instr.rxH2SeenReject 0x02#8).wellFormed ref = true := by decide
theorem test_wf_body : (Instr.rxBody 0x82#8 [0x4F#8]).wellFormed ref = false ∧
    (Instr.rxBody 0x82#8 [0x4F#8, 0x4B#8, 0#8]).wellFormed small = false ∧
    (Instr.rxBody 0x82#8 [0x4F#8, 0x4B#8]).wellFormed small = true := by decide
theorem test_wf_header : (Instr.txHeader 0#16 .writevar 253).wellFormed ref = false ∧
    (Instr.txHeader 0#16 .writevar 252).wellFormed ref = true := by decide
theorem test_wf_write (d : List Byte) : (d.length = 253 → (Instr.txWrite 0#16 (some d)).wellFormed ref = false) ∧
    (d.length = 252 → (Instr.txWrite 0#16 (some d)).wellFormed ref = true) := by
  constructor <;> intro h <;> simp [Instr.wellFormed, Config.maxPayload, h]
theorem test_wf_writestr : (Instr.txWritestr 0#16 (some []) 253 false false false).wellFormed ref = false ∧
    (Instr.txWritestr 0#16 none 300 false false false).wellFormed ref = true := by decide
theorem test_wf_writestr_rom : (Instr.txWritestrRom 0#16 (some []) 253 false false false).wellFormed ref = false ∧
    (Instr.txWritestrRom 0#16 (some []) 252 false false false).wellFormed ref = true := by decide
theorem test_wf_padsplit : (Instr.padsplit 4 4 false false).wellFormed ref = false ∧
    (Instr.padsplit 3 4 false false).wellFormed ref = true := by decide
theorem test_wf_frame : (Instr.frame 0x82#8 [0x4F#8]).wellFormed ref = false ∧
    (Instr.frame 0x82#8 [0x4F#8, 0x4B#8]).wellFormed ref = true := by decide
theorem test_wf_frame_addressed (d : List Byte) (h : d.length = 253) :
    (Instr.frameAddressed 0#16 (.data d)).wellFormed ref = false := by
  simp [Instr.wellFormed, Config.maxPayload, AddressedPayload.bytes, h]
theorem test_wf_frame_write (d : List Byte) (h : d.length = 253) :
    (Instr.frameWriteRequest 0#16 d).wellFormed ref = false := by
  simp [Instr.wellFormed, Config.maxPayload, h]
theorem test_wf_frame_report (d : List Byte) :
    (d.length = 125 → (Instr.frameReadvarReport 0#16 0#8 d).wellFormed ref = false) ∧
    (d.length = 124 → (Instr.frameReadvarReport 0#16 0#8 d).wellFormed ref = true) := by
  constructor <;> intro h <;> simp [Instr.wellFormed, ref, Config.maxBuffer, h]

/-! ### Decoding: words written out bit by bit from spec/30 (REF: H1 = 0101 1010, H2 = 1010 0101) -/

theorem test_decode_idle_h1 : read ref (.rx .idle 0#8) [0b01011010#8] = some (.rxIdleH1, []) := by decide
theorem test_decode_idle_drop :
    read ref (.rx .idle 0#8) [0b01011011#8] = some (.rxIdleDrop 0x5B#8, []) := by decide
theorem test_decode_h1seen_h2 :
    read ref (.rx .header1Seen 0#8) [0b10100101#8] = some (.rxH1SeenH2, []) := by decide
theorem test_decode_h1seen_miss :
    read ref (.rx .header1Seen 0#8) [0b01011010#8] = some (.rxH1SeenMiss 0x5A#8, []) := by decide
theorem test_decode_accept :
    read ref (.rx .header2Seen 0#8) [0b10000000#8] = some (.rxH2SeenAccept 128#8, []) := by decide
theorem test_decode_reject :
    read ref (.rx .header2Seen 0#8) [0b10000001#8] = some (.rxH2SeenReject 129#8, []) := by decide
/-- 30/R59: two of three bytes are there; nothing is consumed. -/
theorem test_decode_hold : read ref (.rx .awaitingBody 3#8) [0b10000010#8, 0b01001111#8] =
    some (.rxHold, [0x82#8, 0x4F#8]) := by decide
theorem test_decode_body :
    read ref (.rx .awaitingBody 3#8) [0b10000010#8, 0b01001111#8, 0b01001011#8, 0b01011010#8] =
      some (.rxBody 0x82#8 [0x4F#8, 0x4B#8], [0x5A#8]) := by decide
/-- 95 section 2.8, second row. -/
theorem test_decode_header : read ref .header
    [0b01011010#8, 0b10100101#8, 0b00000100#8, 0b10000011#8, 0b00010010#8, 0b00110100#8] =
      some (.txHeader 0x1234#16 .readvar 1, []) := by decide
/-- 95 S11. -/
theorem test_decode_tx_read : read ref .host
    [0b01011010#8, 0b10100101#8, 0b00000100#8, 0b10000011#8, 0b00010010#8, 0b00110100#8, 0b00000010#8] =
      some (.txRead 0x1234#16 0x02#8, []) := by decide
/-- 95 S12. -/
theorem test_decode_tx_write : read ref .host
    [0b01011010#8, 0b10100101#8, 0b00000101#8, 0b10000010#8, 0b00010000#8, 0b00000000#8, 0b00000001#8,
      0b00000010#8] = some (.txWrite 0x1000#16 (some [0x01#8, 0x02#8]), []) := by decide
/-- 95 S3: the bytes of the string write are those of the write of its field. -/
theorem test_decode_writestr : encode ref (.txWritestr 0x2000#16 (some [0x41#8, 0x42#8]) 6 false false true) =
    [0x5A#8, 0xA5#8, 0x09#8, 0x82#8, 0x20#8, 0x00#8, 0x20#8, 0x20#8, 0x41#8, 0x42#8, 0x20#8, 0x20#8] := by
  decide
/-- 95 section 3, P4, fifth row. -/
theorem test_decode_writestr_rom :
    encode ref (.txWritestrRom 0x2000#16 (some [0x41#8, 0x42#8]) 5 false true false) =
      [0x5A#8, 0xA5#8, 0x08#8, 0x82#8, 0x20#8, 0x00#8, 0x00#8, 0x00#8, 0x00#8, 0x41#8, 0x42#8] := by decide
/-- 30/R65: these have no bit pattern. -/
theorem test_no_bytes : encode ref .service = [] ∧ encode ref .rxOverrun = [] ∧
    encode ref .rxHold = [] ∧ encode ref (.padsplit 2 6 false false) = [] := by decide
/-- 30/R52. -/
theorem test_decode_writevar : word ref [0b10000010#8] = some .writevar := by decide
/-- 30/R52. -/
theorem test_decode_readvar : word ref [0b10000011#8] = some .readvar := by decide
/-- 30/R50, R61: any command value is a frame. -/
theorem test_decode_frame : word ref
    [0b01011010#8, 0b10100101#8, 0b00000011#8, 0b00000000#8, 0b01011010#8, 0b10100101#8] =
      some (.frame 0x00#8 [0x5A#8, 0xA5#8]) := by decide
/-- 30/R53: FRAME.ADDRESSED is the general name of the next two layouts. -/
theorem test_decode_addressed : encode ref (.frameAddressed 0x1234#16 (.wordCount 0x02#8)) =
    [0x5A#8, 0xA5#8, 0x04#8, 0x83#8, 0x12#8, 0x34#8, 0x02#8] := by decide
/-- 30/R54. -/
theorem test_decode_read_request : read ref .outbound
    [0b01011010#8, 0b10100101#8, 0b00000100#8, 0b10000011#8, 0b00010010#8, 0b00110100#8, 0b00000010#8] =
      some (.frameReadRequest 0x1234#16 0x02#8, []) := by decide
/-- 30/R55. -/
theorem test_decode_write_request : read ref .outbound
    [0b01011010#8, 0b10100101#8, 0b00000101#8, 0b10000010#8, 0b00010000#8, 0b00000000#8, 0b00000001#8,
      0b00000010#8] = some (.frameWriteRequest 0x1000#16 [0x01#8, 0x02#8], []) := by decide
/-- 30/R56, 95 P1. -/
theorem test_decode_report : word ref
    [0b01011010#8, 0b10100101#8, 0b00000110#8, 0b10000011#8, 0b00010000#8, 0b00000000#8, 0b00000001#8,
      0b00000000#8, 0b00101010#8] = some (.frameReadvarReport 0x1000#16 0x01#8 [0x00#8, 0x2A#8]) := by decide
/-- 30/R57. -/
theorem test_decode_ack : word ref
    [0b01011010#8, 0b10100101#8, 0b00000011#8, 0b10000010#8, 0b01001111#8, 0b01001011#8] =
      some .frameWriteAck := by decide
/-- 30/R58 (b), 95 section 2.8: the high byte of an address comes first. -/
theorem test_address_order : headerBytes ref 0x00FF#16 .readvar 1 =
    [0x5A#8, 0xA5#8, 0x04#8, 0x83#8, 0x00#8, 0xFF#8] := by decide
/-- Rejections by name: 30/R60, R62, R50. -/
theorem test_decode_rejects :
    why ref .inbound [0x5A#8, 0xA5#8, 0x02#8, 0x82#8, 0x4F#8] = some (.illegalLength 0x02#8) ∧
    why ref .inbound [0xA5#8, 0xA5#8, 0x03#8, 0x82#8, 0x4F#8, 0x4B#8] = some .badMagic1 ∧
    why ref .inbound [0x5A#8, 0x5A#8, 0x03#8, 0x82#8, 0x4F#8, 0x4B#8] = some .badMagic2 ∧
    why ref .inbound [0x5A#8, 0xA5#8, 0x03#8, 0x82#8, 0x4F#8] = some .truncated ∧
    why ref .command [0x84#8] = some (.unknownCommand 0x84#8) ∧
    why ref .outbound [0x5A#8, 0xA5#8, 0x05#8, 0x83#8, 0x12#8, 0x34#8, 0x02#8, 0x00#8] = some .notEncoderFrame ∧
    why ref (.rx .idle 0#8) [] = some .noByte := by decide

/-! ### One step of each operation -/

theorem test_service_begins : seen (exec .service (outside [0x5A#8])) (fun t => (t.phase, t.rxq)) =
    some (.entry, [0x5A#8]) := by decide
/-- 70/R161. -/
theorem test_service_reentrant : refusal (exec .service inHandOff) = some .reentrantService := by decide
/-- 95 section 2.5: ovr 1, nothing to read, AwaitingBody(10). -/
theorem test_overrun_recovers :
    seen (exec .rxOverrun { at_ .entry .awaitingBody 10#8 [] with ovr := .held true, onFlush := .fixed false true })
      (fun t => (t.st, t.flushes, t.rxq, t.ovr)) = some (.idle, 1, [], .held false) := by decide
/-- 95 section 2.5: ovr 1, one byte to read. -/
theorem test_overrun_needs_empty :
    refusal (exec .rxOverrun { at_ .entry .header2Seen 0#8 [0x06#8] with ovr := .held true }) =
      some .rxNotSelected := by decide
/-- 95 section 2.1. -/
theorem test_idle_h1 : seen (exec .rxIdleH1 (loop .idle 0#8 [0x5A#8, 0x01#8])) (fun t => (t.st, t.rxq)) =
    some (.header1Seen, [0x01#8]) := by decide
/-- 95 section 2.1: one above H1. -/
theorem test_idle_drop : seen (exec (.rxIdleDrop 0x5B#8) (loop .idle 0#8 [0x5B#8])) (fun t => (t.st, t.rxq)) =
    some (.idle, []) := by decide
/-- 95 section 2.2. -/
theorem test_h1seen_h2 : seen (exec .rxH1SeenH2 (loop .header1Seen 0#8 [0xA5#8])) (fun t => (t.st, t.rxq)) =
    some (.header2Seen, []) := by decide
/-- 95 section 2.2: a second H1 is not kept. -/
theorem test_h1seen_miss :
    seen (exec (.rxH1SeenMiss 0x5A#8) (loop .header1Seen 0#8 [0x5A#8, 0xA5#8])) (fun t => (t.st, t.rxq)) =
      some (.idle, [0xA5#8]) := by decide
/-- 95 section 2.3: L = MAX_BUFFER. -/
theorem test_accept_largest :
    seen (exec (.rxH2SeenAccept 0x80#8) (loop .header2Seen 0#8 [0x80#8])) (fun t => (t.st, t.explen)) =
      some (.awaitingBody, 128#8) := by decide
/-- 95 section 4.2: no value is too large. -/
theorem test_accept_255 :
    seen (exec (.rxH2SeenAccept 0xFF#8) { loop .header2Seen 0#8 [0xFF#8] with cfg := large })
      (fun t => (t.st, t.explen)) = some (.awaitingBody, 255#8) := by decide
/-- 95 section 2.3: MAX_BUFFER + 1. -/
theorem test_reject_too_large :
    seen (exec (.rxH2SeenReject 0x81#8) (loop .header2Seen 9#8 [0x81#8])) (fun t => (t.st, t.explen, t.rxq)) =
      some (.idle, 9#8, []) := by decide
/-- 95 section 4.1: MAX_BUFFER = 3. -/
theorem test_reject_small :
    seen (exec (.rxH2SeenReject 0x04#8) { loop .header2Seen 0#8 [0x04#8] with cfg := small }) (fun t => t.st) =
      some .idle := by decide
/-- 95 section 2.4. -/
theorem test_hold : seen (exec .rxHold (loop .awaitingBody 3#8 [0x82#8, 0x4F#8]))
    (fun t => (t.st, t.rxq, t.init, t.phase)) =
      some (.awaitingBody, [0x82#8, 0x4F#8], false, .outside) := by decide
/-- 95 section 2.4, fifth row. -/
theorem test_body : seen (exec (.rxBody 0x82#8 [0x4F#8, 0x4B#8])
      (loop .awaitingBody 3#8 [0x82#8, 0x4F#8, 0x4B#8, 0x5A#8])) (fun t => (t.st, t.rxq, t.init, t.dlog)) =
    some (.idle, [0x5A#8], true, [⟨0x82#8, [0x4F#8, 0x4B#8]⟩]) := by decide
/-- 95 P1: `buf[0..5)` after the frame; a byte written before at an index beyond it stays. -/
theorem test_body_buffer : seen (exec (.rxBody 0x83#8 [0x10#8, 0x00#8, 0x01#8, 0x00#8, 0x2A#8])
      { loop .awaitingBody 6#8 [0x83#8, 0x10#8, 0x00#8, 0x01#8, 0x00#8, 0x2A#8] with
        buf := [(0, 0xEE#8), (7, 0xDD#8)] }) (fun t => t.buf) =
    some [(0, 0x10#8), (1, 0x00#8), (2, 0x01#8), (3, 0x00#8), (4, 0x2A#8), (7, 0xDD#8)] := by decide
/-- 41/R91, 93/U7. -/
theorem test_header_alone : refusal (exec (.txHeader 0x1000#16 .writevar 2) (outside [])) =
    some .standaloneHeader := by decide
/-- 95 section 2.9. -/
theorem test_tx_read : seen (exec (.txRead 0x1234#16 0x02#8) (outside [])) (fun t => t.txq) =
    some [0x5A#8, 0xA5#8, 0x04#8, 0x83#8, 0x12#8, 0x34#8, 0x02#8] := by decide
/-- 95 section 2.9: magic bytes as data are not escaped; 70/R162: from a hand-off. -/
theorem test_tx_read_hand_off : seen (exec (.txRead 0x5AA5#16 0x5A#8) inHandOff) (fun t => t.txq) =
    some [0x5A#8, 0xA5#8, 0x04#8, 0x83#8, 0x5A#8, 0xA5#8, 0x5A#8] := by decide
/-- 95 section 2.10. -/
theorem test_tx_write : seen (exec (.txWrite 0x1000#16 (some [0x01#8, 0x02#8])) (outside [])) (fun t => t.txq) =
    some [0x5A#8, 0xA5#8, 0x05#8, 0x82#8, 0x10#8, 0x00#8, 0x01#8, 0x02#8] := by decide
/-- 95 section 2.10: present and empty; absent. -/
theorem test_tx_write_empty :
    seen (exec (.txWrite 0x1000#16 (some [])) (outside [])) (fun t => t.txq) =
      some [0x5A#8, 0xA5#8, 0x03#8, 0x82#8, 0x10#8, 0x00#8] ∧
    seen (exec (.txWrite 0x1000#16 none) (outside [])) (fun t => t.txq) = some [] := by decide
/-- 95 section 2.12: "AB", width 7, right-aligned, spaces. -/
theorem test_writestr_right :
    seen (exec (.txWritestr 0x2000#16 (some [0x41#8, 0x42#8]) 7 false true true) (outside [])) (fun t => t.txq) =
      some [0x5A#8, 0xA5#8, 0x0A#8, 0x82#8, 0x20#8, 0x00#8, 0x20#8, 0x20#8, 0x20#8, 0x20#8, 0x20#8, 0x41#8,
        0x42#8] := by decide
/-- 95 S5: truncation. -/
theorem test_writestr_truncates :
    seen (exec (.txWritestr 0x2000#16 (some [0x54#8, 0x4F#8, 0x4F#8, 0x4C#8, 0x4F#8, 0x4E#8, 0x47#8]) 3 true false
      false) (outside [])) (fun t => t.txq) =
      some [0x5A#8, 0xA5#8, 0x06#8, 0x82#8, 0x20#8, 0x00#8, 0x54#8, 0x4F#8, 0x4F#8] := by decide
/-- 95 S4: empty text, every byte is padding. -/
theorem test_writestr_rom_empty :
    seen (exec (.txWritestrRom 0x2000#16 (some []) 4 false true false) (outside [])) (fun t => t.txq) =
      some [0x5A#8, 0xA5#8, 0x07#8, 0x82#8, 0x20#8, 0x00#8, 0x00#8, 0x00#8, 0x00#8, 0x00#8] := by decide
/-- 95 section 2.12: presence is tested before the width. -/
theorem test_writestr_rom_absent :
    seen (exec (.txWritestrRom 0x2000#16 none 300 false true false) (outside [])) (fun t => t.txq) = some [] ∧
    refusal (exec (.txWritestrRom 0x2000#16 (some [0x41#8, 0x42#8]) 253 false true false) (outside [])) =
      some .sizeContract := by decide
/-- 95 section 2.11. -/
theorem test_padsplit : padSplit 2 7 false false = (2, 3) ∧ padSplit 2 7 true false = (0, 5) ∧
    padSplit 2 7 false true = (5, 0) ∧ padSplit 0 4 false true = (0, 4) ∧ padSplit 1 2 false false = (0, 1) ∧
    padSplit 1 252 true true = (125, 126) ∧ padSplit 251 252 false true = (1, 0) := by decide
/-- 95 section 2.11, last line. -/
theorem test_padsplit_alone :
    seen (exec (.padsplit 2 6 false false) (outside [])) (fun t => (t.padOut, t.txq)) = some (some (2, 2), []) ∧
    refusal (exec (.padsplit 6 6 false false) (outside [])) = some .padsplitUndefined := by decide
/-- 30/R52. -/
theorem test_writevar : seen (exec .writevar (outside [0x01#8])) (fun t => t.rxq) =
    some [0x01#8, 0x82#8] := by decide
/-- 30/R52. -/
theorem test_readvar : seen (exec .readvar (outside [0x01#8])) (fun t => t.rxq) =
    some [0x01#8, 0x83#8] := by decide
/-- 30/R50. -/
theorem test_frame : seen (exec (.frame 0x00#8 [0x5A#8, 0xA5#8]) (outside [])) (fun t => t.rxq) =
    some [0x5A#8, 0xA5#8, 0x03#8, 0x00#8, 0x5A#8, 0xA5#8] := by decide
/-- 30/R53. -/
theorem test_frame_addressed :
    seen (exec (.frameAddressed 0x5AA5#16 (.data [0x5A#8, 0xA5#8, 0x03#8])) (outside [])) (fun t => t.txq) =
      some [0x5A#8, 0xA5#8, 0x06#8, 0x82#8, 0x5A#8, 0xA5#8, 0x5A#8, 0xA5#8, 0x03#8] := by decide
/-- 30/R54. -/
theorem test_frame_read_request :
    seen (exec (.frameReadRequest 0x000F#16 0x01#8) (outside [])) (fun t => t.txq) =
      some [0x5A#8, 0xA5#8, 0x04#8, 0x83#8, 0x00#8, 0x0F#8, 0x01#8] := by decide
/-- 30/R55. -/
theorem test_frame_write_request :
    seen (exec (.frameWriteRequest 0x1000#16 [0xAB#8]) (outside [])) (fun t => t.txq) =
      some [0x5A#8, 0xA5#8, 0x04#8, 0x82#8, 0x10#8, 0x00#8, 0xAB#8] := by decide
/-- 30/R56. -/
theorem test_frame_report :
    seen (exec (.frameReadvarReport 0x1000#16 0x01#8 [0x00#8, 0x2A#8]) (outside [])) (fun t => t.rxq) =
      some [0x5A#8, 0xA5#8, 0x06#8, 0x83#8, 0x10#8, 0x00#8, 0x01#8, 0x00#8, 0x2A#8] := by decide
/-- 30/R57. -/
theorem test_frame_ack : seen (exec .frameWriteAck (outside [])) (fun t => t.rxq) =
    some [0x5A#8, 0xA5#8, 0x03#8, 0x82#8, 0x4F#8, 0x4B#8] := by decide

/-! ### The step, the environment, the dispatcher -/

/-- The word 82 placed at reset is decoded and run by the next step. -/
theorem test_step_placed_word : seen (step (State.reset.withFetchWord 8 0x82)) (fun t => t.rxq) =
    some [0x82#8] := by decide
/-- 00/R9: with nothing pending the outer loop invokes SERVICE. -/
theorem test_step_polls : seen (step State.reset) (fun t => t.phase) = some .entry := by decide
/-- 70/R150, R153: an engine initialisation keeps the transport's bytes. -/
theorem test_step_reset :
    seen (step (withNext { at_ .scan .awaitingBody 3#8 [0x82#8] with init := true } true .reset))
      (fun t => (t.st, t.init, t.phase, t.rxq)) = some (.idle, false, .outside, [0x82#8]) := by decide
/-- 00/R7, 95 section 4.4: not supported, the indicator is constantly false. -/
theorem test_overrun_unsupported :
    seen (step { at_ .entry .awaitingBody 10#8 [] with ovr := .held true, cfg := { ref with overrunSupported := false } })
      (fun t => (t.st, t.flushes, t.phase)) = some (.awaitingBody, 0, .scan) := by decide
/-- 40/R83, 95 section 2.7, last row: the second header is body, the third starts a frame. -/
theorem test_frames_phantom :
    frames ref .idle 0#8 [0x5A#8, 0xA5#8, 0x03#8, 0x5A#8, 0xA5#8, 0x03#8, 0x5A#8, 0xA5#8, 0x03#8] =
      [⟨0x5A#8, [0xA5#8, 0x03#8]⟩] := by decide
/-- 95 S1. -/
theorem test_frames_resync :
    frames ref .idle 0#8 [0x5A#8, 0xA5#8, 0x02#8, 0x5A#8, 0xA5#8, 0x03#8, 0x82#8, 0x4F#8, 0x4B#8] =
      [⟨0x82#8, [0x4F#8, 0x4B#8]⟩] := by decide
/-- 95 S7. -/
theorem test_dispatch_ack : dispatchOne ref (fun _ => 0#8) ⟨0x82#8, [0x4F#8, 0x4B#8, 0#8, 0#8]⟩ =
    .acknowledged := by decide
/-- 95 S8. -/
theorem test_dispatch_version :
    dispatchOne ref (fun _ => 0#8) ⟨0x83#8, [0x00#8, 0x0F#8, 0x01#8, 0x21#8, 0x11#8]⟩ =
      .version 0x21#8 0x11#8 := by decide
/-- 95 S9. -/
theorem test_dispatch_string :
    dispatchOne ref (fun _ => 0#8)
      ⟨0x83#8, [0x30#8, 0x00#8, 0x03#8, 0x61#8, 0x62#8, 0x63#8, 0xFF#8, 0xFF#8, 0x00#8]⟩ =
      .handled ⟨⟨0x3000#16, 0x08#8, true, some 1⟩,
        some [0x61#8, 0x62#8, 0x63#8, 0#8, 0#8, 0#8, 0#8, 0#8]⟩ := by decide
/-- 49/R118: the declared length is two words, the row has one. -/
theorem test_dispatch_mismatch :
    dispatchOne ref (fun _ => 0#8) ⟨0x83#8, [0x10#8, 0x00#8, 0x02#8, 0x01#8, 0x02#8, 0x03#8, 0x04#8]⟩ =
      .sizeMismatch := by decide
/-- 49/R119. -/
theorem test_dispatch_other : dispatchOne ref (fun _ => 0#8) ⟨0x00#8, [0x5A#8, 0xA5#8]⟩ = .otherCommand := by
  decide

/-! ### Witnesses: for each obligation with hypotheses, states and operands that meet them together -/

/-- `EngineResetLeavesTransport`: between invocations, and inside one. -/
theorem test_hyps_engine_reset :
    ((withNext (outside [0x82#8]) false .reset).pending = [⟨false, .reset⟩] ∧
      (withNext (outside [0x82#8]) false .reset).inService = false) ∧
    ((withNext (loop .awaitingBody 3#8 [0x82#8]) true .reset).pending = [⟨true, .reset⟩] ∧
      (withNext (loop .awaitingBody 3#8 [0x82#8]) true .reset).inService = true) := by decide

/-- `StepKeepsInvariant`, `NoStepChangesParameters`: the last byte of a frame is there; `InvariantExcludesFaults`
with the largest and the smallest accepted length; a step that answers. -/
theorem test_hyps_invariant :
    (loop .awaitingBody 3#8 [0x82#8, 0x4F#8, 0x4B#8]).Inv ∧
    (seen (step (loop .awaitingBody 3#8 [0x82#8, 0x4F#8, 0x4B#8])) (fun t => t.dlog)).isSome = true ∧
    (loop .awaitingBody 128#8 [0x82#8]).Inv ∧
    (seen (step (loop .awaitingBody 128#8 [0x82#8])) (fun t => t.dlog)).isSome = true ∧
    inHandOff.Inv ∧ { inHandOff with buf := [(0, 0x4F#8), (1, 0x4B#8), (126, 0#8)] }.Inv := by decide

/-- The invariant excludes something: an accepted length of 2, a byte of `buf` at MAX_BUFFER - 1, `init` with
no hand-off. -/
theorem test_invariant_excludes : decide (loop .awaitingBody 2#8 []).Inv = false ∧
    decide (loop .awaitingBody 129#8 []).Inv = false ∧
    decide { loop .idle 0#8 [] with buf := [(127, 0#8)] }.Inv = false ∧
    decide { loop .idle 0#8 [] with init := true }.Inv = false ∧
    decide (at_ .handOff .header1Seen 0#8 []).Inv = false := by decide

/-- `StepRunsDecodedWord`: each clause, between invocations and inside one. -/
theorem test_hyps_decoded_word :
    ((withNext (outside []) false (.word [0x82#8])).inService = false ∧ word ref [0x82#8] = some .writevar) ∧
    ((withNext (loop .idle 0#8 []) true (.word [0x84#8])).inService = true ∧
      why ref .command [0x84#8] = some (.unknownCommand 0x84#8)) ∧
    ((withNext (outside []) false (.op (.txRead 0#16 0#8))).inService = false) := by decide

/-- `StepRunsDecodedWord`: what the step then does. -/
theorem test_step_word_refused :
    refusal (step (withNext (loop .idle 0#8 []) true (.word [0x84#8]))) =
      some (.undecodable (.unknownCommand 0x84#8)) := by decide

/-- `StepRunsSelectedRxOperation`: both clauses. -/
theorem test_hyps_selected :
    ((loop .idle 0#8 [0x5A#8]).blockMoves ∧ (loop .idle 0#8 [0x5A#8]).scanning = true ∧
      read ref (.rx .idle 0#8) [0x5A#8] = some (.rxIdleH1, [])) ∧
    ((loop .idle 0#8 []).blockMoves ∧ (loop .idle 0#8 []).rxq = [] ∧ inHandOff.blockMoves ∧
      inHandOff.scanning = true ∧ inHandOff.rxq = []) ∧
    (withNext (loop .idle 0#8 []) false (.push [])).blockMoves ∧
    ¬ (withNext (loop .idle 0#8 []) true (.push [])).blockMoves := by decide

/-- `OuterLoopPolls`. -/
theorem test_hyps_polls : (outside [0x5A#8]).pending = [] ∧ (outside [0x5A#8]).phase = .outside := by decide

/-- `ArrivalsOnlyAppend`: between invocations, and inside one. -/
theorem test_hyps_arrivals :
    (withNext (outside [0x01#8]) false (.push [0x02#8])).inService = false ∧
    seen (step (withNext (loop .awaitingBody 3#8 [0x82#8]) true (.push [0x4F#8]))) (fun t => (t.rxq, t.st)) =
      some ([0x82#8, 0x4F#8], .awaitingBody) := by decide

/-- `ServiceBeginsInvocation`: both clauses. -/
theorem test_hyps_service : (outside []).phase = .outside ∧ inHandOff.phase ≠ .outside ∧
    (at_ .entry .idle 0#8 []).phase ≠ .outside := by decide

/-- `OverrunRecoveryEffect`, `OverrunCheckComesFirst`: the recovery, and each way it is not enabled. -/
theorem test_hyps_overrun :
    (let s := { at_ .entry .awaitingBody 10#8 [] with ovr := .held true }
     s.blockMoves ∧ s.phase = .entry ∧ s.cfg.overrunSupported = true ∧ s.rxOverrun = true ∧ s.rxq = []) ∧
    (loop .idle 0#8 []).phase ≠ .entry ∧
    ({ ref with overrunSupported := false } : Config).overrunSupported = false ∧
    (at_ .entry .idle 0#8 []).rxOverrun = false ∧
    (at_ .entry .header2Seen 0#8 [0x06#8]).rxq ≠ [] := by decide

/-- `ServiceReturns`. -/
theorem test_hyps_returns : (at_ .entry .idle 0#8 [0x5A#8, 0xA5#8]).Inv ∧
    (at_ .entry .idle 0#8 [0x5A#8, 0xA5#8]).phase = .entry ∧
    (at_ .entry .idle 0#8 [0x5A#8, 0xA5#8]).pending = [] := by decide

/-- `IdleConsumesOneByte`: both clauses. -/
theorem test_hyps_idle :
    ((loop .idle 0#8 [0x5A#8, 0x00#8]).scanning = true ∧ (0x5A#8 : Byte) = (loop .idle 0#8 []).cfg.h1) ∧
    (inHandOff.scanning = true ∧ inHandOff.st = .idle ∧ { inHandOff with rxq := [0x59#8] }.rxq = [0x59#8] ∧
      (0x59#8 : Byte) ≠ inHandOff.cfg.h1) := by decide

/-- `Header1SeenConsumesOneByte`: both clauses; the dropped byte is `H1`. -/
theorem test_hyps_header1 :
    ((loop .header1Seen 0#8 [0xA5#8]).scanning = true ∧ (0xA5#8 : Byte) = ref.h2) ∧
    ((loop .header1Seen 0#8 [0x5A#8]).rxq = [ref.h1] ∧ (0x5A#8 : Byte) ≠ ref.h2) := by decide

/-- `LengthByteAcceptedOrRejected`: the lengths 3 and 128, and 2, 129 and 255, under MAX_BUFFER = 128. -/
theorem test_hyps_length :
    (loop .header2Seen 0#8 [0x03#8]).scanning = true ∧ (loop .header2Seen 0#8 [0x03#8]).st = .header2Seen ∧
    (3 ≤ (0x03#8 : Byte).toNat ∧ (0x80#8 : Byte).toNat ≤ ref.maxBuffer) ∧ (0x02#8 : Byte).toNat < 3 ∧
    ref.maxBuffer < (0x81#8 : Byte).toNat ∧ ref.maxBuffer < (0xFF#8 : Byte).toNat := by decide

/-- `HoldEndsInvocation`, `HeldFrameIsNotRecovered`: no byte, one byte, all but one. -/
theorem test_hyps_hold :
    ((loop .awaitingBody 3#8 [0x82#8]).scanning = true ∧ (loop .awaitingBody 3#8 [0x82#8]).held) ∧
    (loop .awaitingBody 3#8 [0x82#8, 0x4F#8]).held ∧
    ((loop .awaitingBody 3#8 []).scanning = true ∧ (loop .awaitingBody 3#8 []).rxAvail = 0 ∧
      (loop .awaitingBody 3#8 []).blockMoves) ∧
    (let s := { at_ .outside .awaitingBody 6#8 [0x83#8, 0x10#8] with ovr := .held true }
     s.pending = [] ∧ s.phase = .outside ∧ s.held) := by decide

/-- `BodyHandsOffFrame`: the shortest frame, exactly there, and with bytes after it. -/
theorem test_hyps_body :
    (let s := loop .awaitingBody 3#8 [0x82#8, 0x4F#8, 0x4B#8]
     s.scanning = true ∧ s.st = .awaitingBody ∧ legalLength s.cfg s.explen = true ∧
       s.rxq = 0x82#8 :: [0x4F#8, 0x4B#8] ++ [] ∧ [0x4F#8, 0x4B#8].length + 1 = s.explen.toNat) ∧
    (let s := loop .awaitingBody 3#8 [0x82#8, 0x4F#8, 0x4B#8, 0x5A#8]
     s.rxq = 0x82#8 :: [0x4F#8, 0x4B#8] ++ [0x5A#8]) := by decide

/-- `BodyHandsOffFrame`: the longest frame under REF. -/
theorem test_hyps_body_longest :
    legalLength ref 128#8 = true ∧ (List.replicate 127 (0#8 : Byte)).length + 1 = (128#8 : Byte).toNat := by
  rw [List.length_replicate]
  decide

/-- `NoRxOperationOutsideService`. -/
theorem test_hyps_no_rx_outside : (outside [0x5A#8]).phase = .outside ∧
    refusal (exec .rxIdleH1 (outside [0x5A#8])) = some .rxNotSelected := by decide

/-- `DecodeTableRows`: the shared premises and each row's. -/
theorem test_hyps_decode_table :
    ((loop .idle 0#8 []).blockMoves ∧ (loop .idle 0#8 []).scanning = true ∧ (loop .idle 0#8 []).rxq = []) ∧
    ((loop .idle 0#8 [0x5A#8]).blockMoves ∧ (loop .idle 0#8 [0x5A#8]).scanning = true ∧
      (loop .idle 0#8 [0x5A#8]).st = .idle) ∧
    ((loop .header1Seen 0#8 [0xA5#8]).blockMoves ∧ (loop .header1Seen 0#8 [0xA5#8]).st = .header1Seen) ∧
    ((loop .header2Seen 0#8 [0x03#8]).blockMoves ∧ 3 ≤ (0x03#8 : Byte).toNat ∧
      (0x80#8 : Byte).toNat ≤ ref.maxBuffer ∧ (0x02#8 : Byte).toNat < 3 ∧
      ref.maxBuffer < (0x81#8 : Byte).toNat) ∧
    ((loop .awaitingBody 3#8 [0x82#8, 0x4F#8]).blockMoves ∧ [0x4F#8].length + 1 < (3#8 : Byte).toNat) ∧
    ((loop .awaitingBody 3#8 [0x82#8, 0x4F#8, 0x4B#8]).blockMoves ∧ 3 ≤ (3#8 : Byte).toNat ∧
      (3#8 : Byte).toNat ≤ ref.maxBuffer ∧ (3#8 : Byte).toNat ≤ [0x4F#8, 0x4B#8].length + 1) := by decide

/-- `RxOperationsFrame`: one of each kind answers a next state. -/
theorem test_hyps_rx_frame :
    (seen (exec (.rxH2SeenAccept 0x03#8) (loop .header2Seen 0#8 [0x03#8])) (fun t => t.st)).isSome = true ∧
    (seen (exec .rxHold (loop .awaitingBody 3#8 [0x82#8])) (fun t => t.st)).isSome = true ∧
    (seen (exec .rxOverrun { at_ .entry .idle 0#8 [] with ovr := .held true }) (fun t => t.st)).isSome = true := by
  decide

/-- `WellFormedFrameAccepted`. -/
theorem test_hyps_frame_accepted :
    let s := loop .idle 0#8 [0x5A#8, 0xA5#8, 0x03#8, 0x82#8, 0x4F#8, 0x4B#8, 0x00#8]
    s.pending = [] ∧ s.scanning = true ∧ s.st = .idle ∧ legalLength s.cfg 0x03#8 = true ∧
      [0x4F#8, 0x4B#8].length + 1 = (0x03#8 : Byte).toNat ∧
      s.rxq = s.cfg.h1 :: s.cfg.h2 :: 0x03#8 :: 0x82#8 :: [0x4F#8, 0x4B#8] ++ [0x00#8] := by decide

/-- `ResynchronisesAfterBadLength`: 95 S1. -/
theorem test_hyps_resync :
    let s := loop .idle 0#8 [0x5A#8, 0xA5#8, 0x02#8, 0x5A#8, 0xA5#8, 0x03#8, 0x82#8, 0x4F#8, 0x4B#8]
    s.pending = [] ∧ s.scanning = true ∧ s.st = .idle ∧ legalLength s.cfg 0x02#8 = false ∧
      legalLength s.cfg 0x03#8 = true ∧ [0x4F#8, 0x4B#8].length + 1 = (0x03#8 : Byte).toNat ∧
      s.rxq = s.cfg.h1 :: s.cfg.h2 :: 0x02#8 :: s.cfg.h1 :: s.cfg.h2 :: 0x03#8 :: 0x82#8 :: [0x4F#8, 0x4B#8] ++ [] ∧
      legalLength s.cfg 0x81#8 = false := by decide

/-- `StrayHeaderByteLosesFrame`: 95 P5. -/
theorem test_hyps_stray :
    let s := loop .idle 0#8 [0x5A#8, 0x5A#8, 0xA5#8, 0x03#8, 0x82#8, 0x4F#8, 0x4B#8]
    s.pending = [] ∧ s.scanning = true ∧ s.st = .idle ∧ s.cfg.h1 ≠ s.cfg.h2 ∧
      s.rxq = s.cfg.h1 :: s.cfg.h1 :: s.cfg.h2 :: [0x03#8, 0x82#8, 0x4F#8, 0x4B#8] := by decide

/-- `StreamDeterminesHandOffs`: a step of the block, an arrival, the entry of a SERVICE. -/
theorem test_hyps_stream :
    ((loop .idle 0#8 [0x5A#8]).Inv ∧ (loop .idle 0#8 [0x5A#8]).blockMoves ∧
      (loop .idle 0#8 [0x5A#8]).phase ≠ .entry ∧
      seen (step (loop .idle 0#8 [0x5A#8])) (fun t => t.st) = some .header1Seen) ∧
    ((withNext (loop .idle 0#8 []) true (.push [0x5A#8])).Inv ∧
      ∀ p ∈ (withNext (loop .idle 0#8 []) true (.push [0x5A#8])).pending.head?, p.act ≠ .reset) ∧
    ((at_ .entry .idle 0#8 []).overrunEnabled = false ∧ (at_ .entry .idle 0#8 []).Inv) := by decide

/-- `PiecesMakeNoDifference`: 95 S2 in two pieces; the indicator held false, or not supported. -/
theorem test_hyps_pieces :
    let s := { outside [] with pending := feedPieces [[0x5A#8, 0xA5#8, 0x06#8], [0x83#8, 0x10#8, 0#8, 1#8, 0#8, 0x2A#8]] }
    s.Inv ∧ s.phase = .outside ∧ s.overrunQuiet ∧
      { s with ovr := .held true, cfg := { ref with overrunSupported := false } }.overrunQuiet := by decide

/-- `LoopBackOfEncoderFrames`: 95 P7, and under MAX_BUFFER = 3 the frame of section 4.1. -/
theorem test_hyps_loop_back :
    (let s := loop .idle 0#8 [0x5A#8, 0xA5#8, 0x05#8, 0x82#8, 0x10#8, 0x00#8, 0x01#8, 0x02#8]
     s.pending = [] ∧ s.scanning = true ∧ s.st = .idle ∧
       s.rxq = addressedBytes s.cfg 0x1000#16 (.data [0x01#8, 0x02#8]) ++ [] ∧ 2 + 3 ≤ s.cfg.maxBuffer) ∧
    (let s := { loop .idle 0#8 [0xAA#8, 0x55#8, 0x04#8, 0x83#8, 0x12#8, 0x34#8, 0x02#8] with cfg := small }
     s.rxq = addressedBytes s.cfg 0x1234#16 (.wordCount 0x02#8) ++ [] ∧ s.cfg.maxBuffer < 1 + 3) ∧
    (ref.maxBuffer = 125 + 3 ∧ ref.maxBuffer < 126 + 3) := by decide

/-- The premise of the TX statements (`ReadRequestBytes`, `AbsentPayloadSendsNothing` and the others): no
operation in progress, or a hand-off. -/
theorem test_hyps_tx_allowed : (outside []).txAllowed = true ∧ inHandOff.txAllowed = true := by decide

/-- `WriteRequestBytes`, `SizeContractRefused`, `OutgoingFramesAreOperations`: 252 bytes and 253. -/
theorem test_hyps_sizes : (List.replicate 252 (0xEE#8 : Byte)).length ≤ 252 ∧
    252 < (List.replicate 253 (0xEE#8 : Byte)).length ∧ inHandOff.txAllowed = true := by
  rw [List.length_replicate, List.length_replicate]
  decide

/-- `StringFieldBytes`, `StringFieldPointwise`: the text as wide as the field, wider, and narrower. -/
theorem test_hyps_widths : (252 ≤ 252 ∧ (0 : Nat) ≤ 252) ∧ 2 ≤ [0x41#8, 0x42#8].length ∧
    ¬ 3 ≤ [0x41#8, 0x42#8].length ∧ (outside []).txAllowed = true := by decide

/-- `PaddingSplitCases`, `PadsplitAnswersItsSplit`: each clause. -/
theorem test_hyps_padsplit : ((0 : Nat) < 4 ∧ (0 : Nat) < 2 ∧ (2 : Nat) < 7 ∧ (251 : Nat) < 252) ∧
    (7 : Nat) ≤ 7 ∧ (4 : Nat) ≤ 5 := by decide

/-- `ConcurrentOperationRefused`: both phases. -/
theorem test_hyps_concurrent : (at_ .entry .idle 0#8 []).phase = .entry ∧ (loop .idle 0#8 []).phase = .scan ∧
    refusal (exec (.txRead 0#16 0#8) (loop .idle 0#8 [])) = some .concurrentOperation := by decide

/-- `TxOperationsFrame`: operations of each kind answer a next state. -/
theorem test_hyps_tx_frame :
    (seen (exec (.txRead 0#16 0#8) (outside [])) (fun t => t.txq)).isSome = true ∧
    (seen (exec (.txWritestr 0#16 (some [0x41#8]) 3 false false true) (outside [])) (fun t => t.txq)).isSome = true ∧
    (seen (exec (.frameWriteRequest 0#16 []) inHandOff) (fun t => t.txq)).isSome = true := by decide

/-- `InboundFramesArrive`: the largest lengths that fit the length field, and one more. -/
theorem test_hyps_inbound : (List.replicate 254 (0#8 : Byte)).length ≤ 254 ∧
    254 < (List.replicate 255 (0#8 : Byte)).length ∧ (List.replicate 251 (0#8 : Byte)).length ≤ 251 ∧
    251 < (List.replicate 252 (0#8 : Byte)).length := by
  simp only [List.length_replicate]
  decide

/-- `DecodeOfEncode`: an instruction of each kind of place. -/
theorem test_hyps_decode_of_encode :
    ((Instr.rxBody 0x82#8 [0x4F#8, 0x4B#8]).wellFormed ref = true ∧
      (Instr.rxBody 0x82#8 [0x4F#8, 0x4B#8]).homeContext = some (.rx .awaitingBody 3#8)) ∧
    ((Instr.txRead 0x1234#16 0x02#8).wellFormed ref = true ∧ (Instr.txRead 0x1234#16 0x02#8).homeContext = some .host) ∧
    ((Instr.frame 0x83#8 [0x00#8, 0x0F#8]).wellFormed ref = true ∧
      (Instr.frame 0x83#8 [0x00#8, 0x0F#8]).homeContext = some .inbound) ∧
    (Instr.frame 0x82#8 [0x4F#8, 0x4B#8]).homeContext = none ∧
    (Instr.frameReadRequest 0x1234#16 0x02#8).homeContext = some .outbound ∧
    (Instr.txHeader 0#16 .writevar 252).homeContext = some .header ∧
    Instr.writevar.homeContext = some .command := by decide

/-- `EncodeOfDecode`: a frame with bytes after it. -/
theorem test_hyps_encode_of_decode :
    read ref .inbound [0x5A#8, 0xA5#8, 0x03#8, 0x82#8, 0x4F#8, 0x4B#8, 0x5A#8] = some (.frameWriteAck, [0x5A#8]) := by
  decide

/-- `OtherNamesDecode`. -/
theorem test_hyps_other_names : (AddressedPayload.data [0x01#8]).bytes.length ≤ 252 ∧
    (AddressedPayload.wordCount 0x01#8).bytes.length ≤ 252 ∧ (6 : Nat) ≤ 252 := by decide

/-- `LogsOnlyGrow`, `InitSetByHandOffOnly`: a step that makes the first hand-off; a step with `init` set. -/
theorem test_hyps_logs :
    (let s := loop .awaitingBody 3#8 [0x82#8, 0x4F#8, 0x4B#8]
     seen (step s) (fun t => (t.init, t.dlog.length)) = some (true, 1) ∧ s.init = false ∧
       ∀ p ∈ s.pending.head?, p.act ≠ .reset) ∧
    (inHandOff.init = true ∧ (seen (step inHandOff) (fun t => t.init)) = some true) := by decide

/-- `WriteAckNeverHandled`. -/
theorem test_hyps_ack : (⟨0x82#8, [0x4F#8, 0x4B#8, 0#8]⟩ : HandOff).cmd = 0x82#8 ∧
    (⟨0x82#8, [0x4F#8, 0x4B#8, 0#8]⟩ : HandOff).body.take 2 = [0x4F#8, 0x4B#8] := by decide

/-- `StringPayloadStopsAtTerminator`: 95 S9; data as long as the field and longer; none. -/
theorem test_hyps_string_payload : (∀ b ∈ [0x61#8, 0x62#8, 0x63#8], b ≠ (0xFF#8 : Byte)) ∧
    (∀ b ∈ ([] : List Byte), b ≠ 0xFF#8) ∧
    stringPayload 2 (0#8 :: 0#8 :: 0#8 :: [0x61#8, 0x62#8, 0x63#8] ++ (0xFF#8 :: 0xFF#8 :: [])) = [0x61#8, 0x62#8] := by
  decide

/-- `LookupAnswersFirstMatch`: a row behind the sentinel is not found. -/
theorem test_hyps_lookup :
    vpLookup 0x1000#16 [⟨0#16, 0#8, false, none⟩, ⟨0x1000#16, 0x02#8, false, some 2⟩] = none ∧
    (0x1000#16 : Addr) ≠ 0 := by decide

/-- `FixedPayloadNeedsDeclaredLength`, `LookupAnswersFirstMatch`: the row at 1000; declared length 2 and 4;
as many data bytes as the row's size, and more. -/
theorem test_hyps_fixed_payload :
    (⟨0x1000#16, 0x02#8, false, some 2⟩ : VpRow).handler ≠ none ∧
    (⟨0x1000#16, 0x02#8, false, some 2⟩ : VpRow).size ≠ 0 ∧
    (0x02#8 : Byte).toNat ≤ [0x00#8, 0x2A#8, 0x00#8].length ∧
    vpLookup 0x1000#16 ref.vpTable = some ⟨0x1000#16, 0x02#8, false, some 2⟩ ∧
    [0x10#8, 0x00#8, 0x01#8].length = 3 ∧ [0x00#8, 0x2A#8].length = (0x02#8 : Byte).toNat ∧
    (4 : Nat) ≠ (0x02#8 : Byte).toNat ∧ vpLookup 0x0000#16 ref.vpTable = none := by decide

/-- `DispatcherLeavesBlock`: a hand-off to take, inside the invocation that made it; none to take. -/
theorem test_hyps_dispatcher :
    (withNext inHandOff true .dispatcher).pending = [⟨true, .dispatcher⟩] ∧
    (withNext inHandOff true .dispatcher).disp.seen < (withNext inHandOff true .dispatcher).dlog.length ∧
    ¬ (outside []).disp.seen < (outside []).dlog.length ∧ (outside []).inService = false := by decide

end Sys2Proof.Tests
end

/-! ### The outer control loop (00/R9, 70/R171) -/

namespace Sys2Proof.Machine

/-- Between invocations no SERVICE is in progress (70/R161). -/
theorem State.inService_of_outside (s : State) (h : s.phase = .outside) : s.inService = false := by
  simp [State.inService, h]

/-- The case `fetch_of_blockMoves` and `fetch_of_pending` leave open: nothing is in line and no invocation
is in progress. -/
theorem fetch_of_noPending (s : State) (hp : s.pending = []) (h : s.inService = false) :
    s.fetch = .run .service s := by
  simp [State.fetch, hp, h]

/-- Settles O10: with nothing in line and no invocation in progress the next step is SERVICE. -/
theorem outerLoopPolls : Obligations.OuterLoopPolls := by
  intro s hp hphase
  have hidle : s.inService = false := s.inService_of_outside hphase
  exact step_of_run s s .service (fetch_of_noPending s hp hidle)

end Sys2Proof.Machine

/-! ### The state: reset, the parameters, the logs, the invariant (spec/10) -/

namespace Sys2Proof.Machine

/-- `step_effect` with the line folded in: every next state comes of the state with some line `rest` in
place of its own, by an operation, by the environment, or by a reset that was first in line. -/
theorem step_change (s t : State) (h : step s = .next t) :
    ∃ rest, Effect { s with pending := rest } t ∨ EnvEffect { s with pending := rest } t ∨
      (∃ p ∈ s.pending.head?, p.act = .reset) ∧ t = State.engineReset { s with pending := rest } := by
  rcases step_effect s t h with ⟨s0, hline, -, he⟩ | ⟨p, rest, hp, hact, -, ht⟩
  · obtain ⟨rest, rfl⟩ : ∃ rest, s0 = { s with pending := rest } := by
      rcases hline with rfl | ⟨_, rest, _, rfl⟩
      · exact ⟨s0.pending, rfl⟩
      · exact ⟨rest, rfl⟩
    exact ⟨rest, he.imp id .inl⟩
  · exact ⟨rest, .inr (.inr ⟨⟨p, by simp [hp], hact⟩, ht⟩)⟩

/-- `step_change` where no reset is next in line. -/
theorem step_change_of_noReset (s t : State) (h : step s = .next t)
    (hno : ∀ p ∈ s.pending.head?, p.act ≠ .reset) :
    ∃ rest, Effect { s with pending := rest } t ∨ EnvEffect { s with pending := rest } t := by
  obtain ⟨rest, he | he | ⟨⟨p, hp, hact⟩, -⟩⟩ := step_change s t h
  · exact ⟨rest, .inl he⟩
  · exact ⟨rest, .inr he⟩
  · exact absurd hact (hno p hp)

/-! #### The invariant -/

/-- The bounds of 40/R74 as inequalities. -/
theorem legalLength_iff (c : Config) (len : Byte) :
    legalLength c len = true ↔ 3 ≤ len.toNat ∧ len.toNat ≤ c.maxBuffer := by
  simp [legalLength]

/-- 40/R76: a body of an accepted length, handed off, keeps the invariant. The framer is in Idle after it,
so what is to show is that the body fits its bounds and `buf`. -/
theorem inv_of_handedOff (s : State) (cmd : Byte) (body rest : List Byte) (hst : s.st = .awaitingBody)
    (hlen : body.length + 1 = s.explen.toNat) (hs : s.Inv) :
    State.Inv { s with
      rxq := rest, st := .idle, init := true, dlog := s.dlog ++ [⟨cmd, body⟩],
      buf := Memory.writeAll 0 body s.buf, phase := .handOff } := by
  obtain ⟨hlegal, hwf, hbuf, hbodies, -, -, hseen⟩ := hs
  obtain ⟨hmin, hmax⟩ := (legalLength_iff _ _).mp (hlegal hst)
  refine ⟨nofun, Memory.writeAll_wf body 0 s.buf hwf, ?_, ?_, by simp [State.initTellsHandOff],
    fun _ => rfl, ?_⟩
  · intro x hx
    rcases Memory.mem_writeAll body 0 s.buf x hx with hx | hx
    · exact hbuf x hx
    · show x.1 + 1 < s.cfg.maxBuffer
      omega
  · intro h hh
    rcases List.mem_append.mp hh with hh | hh
    · exact hbodies h hh
    · obtain rfl := List.mem_singleton.mp hh
      show 2 ≤ body.length ∧ body.length + 1 ≤ s.cfg.maxBuffer
      omega
  · simp only [List.length_append]
    omega

/-- Every operation keeps the invariant: a TX operation, an arrival and PADSPLIT write nothing it speaks of,
the framer's moves away from a body owe nothing about `explen`, an accepted length is a legal one. -/
theorem Effect.keeps_inv {s t : State} (e : Effect s t) (hs : s.Inv) : t.Inv := by
  have ⟨hlegal, hwf, hbuf, hbodies, hinit, hidle, hseen⟩ := hs
  cases e with
  | sent | arrived | padded => exact hs
  | began | heldBack => exact ⟨hlegal, hwf, hbuf, hbodies, hinit, nofun, hseen⟩
  | overran | idleH1 | idleDrop | h1SeenH2 | h1SeenMiss | rejected =>
    exact ⟨nofun, hwf, hbuf, hbodies, hinit, nofun, hseen⟩
  | accepted _ _ _ _ _ hlen => exact ⟨fun _ => hlen, hwf, hbuf, hbodies, hinit, nofun, hseen⟩
  | handedOff cmd body rest _ hst _ hlen _ => exact inv_of_handedOff s cmd body rest hst hlen hs

/-- The environment keeps the invariant: of the registers it speaks of only the phase and the dispatcher's
count change. -/
theorem EnvEffect.keeps_inv {s t : State} (e : EnvEffect s t) (hs : s.Inv) : t.Inv := by
  have ⟨hlegal, hwf, hbuf, hbodies, hinit, hidle, hseen⟩ := hs
  cases e with
  | stay | pushed | lineSet | reactionSet => exact hs
  | dispatched d n hlt hd =>
    exact ⟨hlegal, hwf, hbuf, hbodies, hinit, hidle, by rw [hd]; exact hlt⟩
  | checked | returned => exact ⟨hlegal, hwf, hbuf, hbodies, hinit, nofun, hseen⟩

/-- 10/R22: a state with the registers and logs of a fresh engine meets the invariant, whatever `explen`. -/
theorem inv_of_fresh (s : State) (hst : s.st = .idle) (hbuf : s.buf = []) (hinit : s.init = false)
    (hdlog : s.dlog = []) (hseen : s.disp.seen = 0) : s.Inv := by
  have hlegal : s.lengthLegal := by simp [State.lengthLegal, hst]
  have hwf : s.buf.wf := by simp [hbuf]
  have hwithin : s.bufWithin := by simp [State.bufWithin, hbuf]
  have hbodies : s.bodiesBounded := by simp [State.bodiesBounded, hdlog]
  have htells : s.initTellsHandOff := by simp [State.initTellsHandOff, hinit, hdlog]
  exact ⟨hlegal, hwf, hwithin, hbodies, htells, fun _ => hst, hseen ▸ Nat.zero_le _⟩

/-- Settles O3: the reset state is a fresh one. -/
theorem resetMeetsInvariant : Obligations.ResetMeetsInvariant :=
  inv_of_fresh State.reset rfl rfl rfl rfl rfl

/-- Settles O4: whatever the step does (operation, environment, reset), it keeps the invariant, which says
nothing of the line. -/
theorem stepKeepsInvariant : Obligations.StepKeepsInvariant := by
  intro s t hs h
  obtain ⟨rest, he | he | ⟨-, rfl⟩⟩ := step_change s t h
  · exact he.keeps_inv hs
  · exact he.keeps_inv hs
  · exact inv_of_fresh _ rfl rfl rfl rfl rfl

/-! #### The parameters -/

theorem Effect.cfg_eq {s t : State} (e : Effect s t) : t.cfg = s.cfg := by cases e <;> rfl

theorem EnvEffect.cfg_eq {s t : State} (e : EnvEffect s t) : t.cfg = s.cfg := by cases e <;> rfl

/-- Settles O7: no operation, no act of the environment and no reset writes a parameter. -/
theorem noStepChangesParameters : Obligations.NoStepChangesParameters := by
  intro s t h
  obtain ⟨rest, he | he | ⟨-, rfl⟩⟩ := step_change s t h
  · exact he.cfg_eq
  · exact he.cfg_eq
  · rfl

/-! #### The logs and the flag -/

/-- 10/R20: TX operations append to the stream, RX.BODY to the dispatch log, RX.OVERRUN counts a flush. -/
theorem Effect.logs_grow {s t : State} (e : Effect s t) :
    s.txq <+: t.txq ∧ s.dlog <+: t.dlog ∧ s.flushes ≤ t.flushes := by
  cases e with
  | sent bytes => exact ⟨List.prefix_append s.txq bytes, List.prefix_rfl, Nat.le_refl _⟩
  | overran => exact ⟨List.prefix_rfl, List.prefix_rfl, Nat.le_succ _⟩
  | handedOff => exact ⟨List.prefix_rfl, List.prefix_append s.dlog _, Nat.le_refl _⟩
  | _ => exact ⟨List.prefix_rfl, List.prefix_rfl, Nat.le_refl _⟩

/-- The environment writes no log, and not `init`. -/
theorem EnvEffect.logs_init_eq {s t : State} (e : EnvEffect s t) :
    t.txq = s.txq ∧ t.dlog = s.dlog ∧ t.flushes = s.flushes ∧ t.init = s.init := by
  cases e <;> exact ⟨rfl, rfl, rfl, rfl⟩

/-- Settles O51: an operation lets the logs grow, and the environment leaves them alone. -/
theorem logsOnlyGrow : Obligations.LogsOnlyGrow := by
  intro s t h hno
  obtain ⟨rest, he | he⟩ := step_change_of_noReset s t h hno
  · exact he.logs_grow
  · obtain ⟨htx, hdlog, hflushes, -⟩ := he.logs_init_eq
    exact ⟨htx ▸ List.prefix_rfl, hdlog ▸ List.prefix_rfl, Nat.le_of_eq hflushes.symm⟩

/-- 40/R78: an operation leaves `init` alone, or sets it with a hand-off appended to the dispatch log. -/
theorem Effect.init_eq_or_handOff {s t : State} (e : Effect s t) :
    t.init = s.init ∨ t.init = true ∧ ∃ x, t.dlog = s.dlog ++ [x] := by
  cases e with
  | handedOff cmd body => exact .inr ⟨rfl, ⟨cmd, body⟩, rfl⟩
  | _ => exact .inl rfl

/-- Settles O52: of the operations only RX.BODY writes `init`, to 1 and with a hand-off. -/
theorem initSetByHandOffOnly : Obligations.InitSetByHandOffOnly := by
  intro s t h hno
  have hcases : t.init = s.init ∨ t.init = true ∧ ∃ x, t.dlog = s.dlog ++ [x] := by
    obtain ⟨rest, he | he⟩ := step_change_of_noReset s t h hno
    · exact he.init_eq_or_handOff
    · obtain ⟨-, -, -, hinit⟩ := he.logs_init_eq
      exact .inl hinit
  rcases hcases with hinit | ⟨hset, x, hdlog⟩
  · exact ⟨fun h1 => hinit.trans h1, fun h0 h1 => by simp [hinit, h0] at h1⟩
  · exact ⟨fun _ => hset, fun _ _ => by simp [hdlog]⟩

/-! #### The frame of the RX operations -/

/-- A one-byte operation that only moves the framing state: the exact state it leaves. -/
theorem rxByteArm_setSt_inv (st v : RxState) (inClass : Byte → Bool) (s t : State)
    (h : rxByteArm st inClass (fun _ u => u.setSt v) s = .next t) :
    ∃ rest, rest <:+ s.rxq ∧ t = { s with rxq := rest, st := v, phase := .scan } := by
  obtain ⟨b, rest, -, -, hq, -, rfl⟩ := rxByteArm_inv _ _ _ _ _ h
  exact ⟨rest, hq ▸ List.suffix_cons b rest, rfl⟩

/-- 40/R72 to R74: but for an accepted length, the one-byte operations only move the framing state. -/
theorem exec_rxMove_inv (i : Instr) (b : Byte) (s t : State)
    (hi : i ∈ [.rxIdleH1, .rxIdleDrop b, .rxH1SeenH2, .rxH1SeenMiss b, .rxH2SeenReject b])
    (h : exec i s = .next t) :
    ∃ rest v, rest <:+ s.rxq ∧ t = { s with rxq := rest, st := v, phase := .scan } := by
  simp only [List.mem_cons, List.not_mem_nil, or_false] at hi
  rcases hi with rfl | rfl | rfl | rfl | rfl <;>
  · obtain ⟨rest, hrest, ht⟩ := rxByteArm_setSt_inv _ _ _ s t h
    exact ⟨rest, _, hrest, ht⟩

/-- 40/R74: RX.H2SEEN_accept stores the length besides. -/
theorem execRxH2SeenAccept_inv (len : Byte) (s t : State) (h : execRxH2SeenAccept len s = .next t) :
    ∃ rest, rest <:+ s.rxq ∧
      t = { s with rxq := rest, explen := len, st := .awaitingBody, phase := .scan } := by
  obtain ⟨b, rest, -, -, hq, hclass, rfl⟩ := rxByteArm_inv _ _ _ _ _ h
  simp only [Bool.and_eq_true, decide_eq_true_eq] at hclass
  obtain ⟨rfl, -⟩ := hclass
  exact ⟨rest, hq ▸ List.suffix_cons b rest, rfl⟩

/-- 40/R71: RX.OVERRUN writes `st`, the flush log, the phase and the transport's side. -/
theorem execRxOverrun_inv (s t : State) (h : execRxOverrun s = .next t) :
    ∃ k line n, t = { s with
      st := .idle, flushes := s.flushes + 1, rxq := s.rxq.drop k, phase := .scan, ovr := line, draws := n } := by
  obtain ⟨k, line, n, hf⟩ := State.flush_spec s.abortFrame.advanceDraw
  simp only [execRxOverrun, hf] at h
  split at h
  · exact ⟨k, line, n, (Host.Outcome.next.inj h).symm⟩
  · simp at h

/-- 40/R70: SERVICE writes the phase alone. -/
theorem execService_inv (s t : State) (h : execService s = .next t) : t = { s with phase := .entry } := by
  simp only [execService] at h
  split at h
  · simp at h
  · exact (Host.Outcome.next.inj h).symm

/-- 40/R75: RX.HOLD writes the phase alone. -/
theorem execRxHold_inv (s t : State) (h : execRxHold s = .next t) : t = { s with phase := .outside } := by
  simp only [execRxHold] at h
  split at h
  · exact (Host.Outcome.next.inj h).symm
  · simp at h

/-- Settles O24: each operation's next state, written out, shows which registers it has written. The five
operations that only move the framing state are one case. -/
theorem rxOperationsFrame : Obligations.RxOperationsFrame := by
  intro s t b body i hi h
  have hcases : i = .service ∨ i = .rxOverrun ∨ i = .rxH2SeenAccept b ∨ i = .rxHold ∨ i = .rxBody b body ∨
      i ∈ [.rxIdleH1, .rxIdleDrop b, .rxH1SeenH2, .rxH1SeenMiss b, .rxH2SeenReject b] := by
    simp only [List.mem_cons, List.not_mem_nil, or_false] at hi ⊢
    tauto
  rcases hcases with rfl | rfl | rfl | rfl | rfl | hmove
  · obtain rfl := execService_inv s t h
    simp
  · obtain ⟨k, line, n, rfl⟩ := execRxOverrun_inv s t h
    simp [List.drop_suffix]
  · obtain ⟨rest, hrest, rfl⟩ := execRxH2SeenAccept_inv b s t h
    simp [hrest]
  · obtain rfl := execRxHold_inv s t h
    simp
  · obtain ⟨rest, -, -, hq, -, -, rfl⟩ := execRxBody_inv b body s t h
    have hrest : rest <:+ s.rxq := hq ▸ List.suffix_append _ rest
    simp [hrest]
  · obtain ⟨rest, v, hrest, rfl⟩ := exec_rxMove_inv i b s t hmove h
    have hother : ¬ (i = .service ∨ i = .rxHold) := by rintro (rfl | rfl) <;> simp at hmove
    simp [hrest, hother]

/-! #### Reset, arrivals, the dispatcher -/

/-- Settles O1: the fields of the reset state, and a `buf` with no byte written. -/
theorem resetStateOfEngine : Obligations.ResetStateOfEngine := by
  refine ⟨rfl, rfl, rfl, rfl, rfl, rfl, rfl, ?_⟩
  intro i hi
  have hunwritten : State.reset.buf.read i = none := rfl
  simp [State.bufRead, hi, hunwritten]

/-- Settles O11: an arrival first in line is performed, and it is an append. -/
theorem arrivalsOnlyAppend : Obligations.ArrivalsOnlyAppend := by
  intro s w bytes rest hp hfirst
  exact step_of_become s _ (fetch_of_pending s ⟨w, .push bytes⟩ rest hp hfirst)

/-- 49/R110: the dispatcher takes the next hand-off if there is one, and writes its own record only. -/
theorem State.dispatcherStep_eq (s : State) :
    ∃ d n, s.dispatcherStep = { s with disp := d, draws := n } ∧
      d.seen = if s.disp.seen < s.dlog.length then s.disp.seen + 1 else s.disp.seen := by
  by_cases hlt : s.disp.seen < s.dlog.length
  · simp only [State.dispatcherStep, List.getElem?_eq_getElem hlt, if_pos hlt]
    exact ⟨_, _, rfl, Dispatcher.record_seen _ _⟩
  · simp only [State.dispatcherStep, List.getElem?_eq_none (Nat.le_of_not_lt hlt), if_neg hlt]
    exact ⟨s.disp, s.draws, rfl, rfl⟩

/-- Settles O57: the dispatcher first in line acts on the state with itself taken off the line. -/
theorem dispatcherLeavesBlock : Obligations.DispatcherLeavesBlock := by
  intro s w rest hp hfirst
  obtain ⟨d, n, hstep, hseen⟩ := (s.setPending rest).dispatcherStep_eq
  refine ⟨d, n, ?_, hseen⟩
  rw [step_of_become s _ (fetch_of_pending s ⟨w, .dispatcher⟩ rest hp hfirst), hstep]
  rfl

end Sys2Proof.Machine

/-! ### The port primitives: flush, and who may send (spec/20) -/

namespace Sys2Proof.Machine

/-- Settles O15: a flush drops some number of the oldest received bytes, and what `List.drop` leaves is a
suffix. -/
theorem flushOnlyShortensReceiveStream : Obligations.FlushOnlyShortensReceiveStream := by
  intro s
  obtain ⟨k, line, n, hflush⟩ := s.flush_spec
  exact ⟨_, hflush, List.drop_suffix k s.rxq, rfl, rfl, rfl, rfl, rfl, rfl, rfl, rfl, rfl, rfl⟩

/-- 20/R46: sending is shut out exactly at the entry of a SERVICE and in its byte loop. -/
theorem State.txAllowed_eq_false_iff (s : State) :
    s.txAllowed = false ↔ s.phase = .entry ∨ s.phase = .scan := by
  cases hphase : s.phase <;> simp [State.txAllowed, hphase]

/-- 93/U6: where sending is shut out, the operation is refused whatever it would send. -/
theorem txOperation_refused (send : State → Except Stop State) (s : State) (h : s.txAllowed = false) :
    txOperation send s = .refused .concurrentOperation := by
  simp [txOperation, h]

/-- Settles O42: in both phases sending is shut out, and each of the seven operations sends through
`txOperation`. -/
theorem concurrentOperationRefused : Obligations.ConcurrentOperationRefused := by
  intro s addr n d data p width aL aR sp hphase i hi
  have hshut : s.txAllowed = false := s.txAllowed_eq_false_iff.mpr hphase
  simp only [List.mem_cons, List.not_mem_nil, or_false] at hi
  rcases hi with rfl | rfl | rfl | rfl | rfl | rfl | rfl <;>
    simp only [exec, execTxRead, execTxWrite, execTxWritestr, execTxWritestrRom, execFrameAddressed,
      execFrameReadRequest, execFrameWriteRequest, sendDatagram, txOperation_refused _ s hshut]

end Sys2Proof.Machine

/-! ### Encoding: the decoder reads back what the encoder writes, and nothing else (spec/30) -/

namespace Sys2Proof

/-! #### The command byte, the length byte, the two layouts taken apart -/

/-- 30/R52: a byte is read as a command exactly where it is that command's code. -/
theorem WireCommand.ofCode_eq_some_iff (b : Byte) (k : WireCommand) :
    WireCommand.ofCode b = some k ↔ b = k.code := by
  constructor
  · intro h
    simp only [WireCommand.ofCode] at h
    split_ifs at h with hcode hcode <;> exact Option.some.inj h ▸ hcode
  · rintro rfl
    cases k <;> rfl

/-- 30/R50: a length that fits its one byte is read back from it. -/
theorem toNat_lengthByte (n : Nat) (h : n ≤ 255) : (BitVec.ofNat 8 n).toNat = n := by
  rw [BitVec.toNat_ofNat]
  omega

/-- 30/R64: the length byte alone tells where the frame ends, so the frame is taken off whatever follows. -/
theorem splitFrame_frameBytes (c : Config) (maxLen : Nat) (cmd : Byte) (body rest : List Byte)
    (hbyte : maxLen ≤ 255) (hmin : 3 ≤ frameLength body) (hmax : frameLength body ≤ maxLen) :
    splitFrame c maxLen (frameBytes c cmd body ++ rest) = .ok ⟨cmd, body, rest⟩ := by
  have hlen := toNat_lengthByte (frameLength body) (by omega)
  have hlegal : ¬ (frameLength body < 3 ∨ maxLen < frameLength body) := by omega
  have hthere : ¬ (cmd :: (body ++ rest)).length < frameLength body := by
    simp only [List.length_cons, List.length_append, frameLength]
    omega
  simp only [frameBytes, List.cons_append, splitFrame, hlen, if_neg hlegal, if_neg hthere]
  simp [frameLength]

/-- 30/R64: the frame taken apart, written out again, stands where it was read. -/
theorem frameBytes_of_splitFrame (c : Config) (maxLen : Nat) (bs : List Byte) (f : SplitFrame)
    (h : splitFrame c maxLen bs = .ok f) : frameBytes c f.cmd f.body ++ f.rest = bs := by
  rcases bs with _ | ⟨m1, _ | ⟨m2, _ | ⟨len, t⟩⟩⟩
  · simp [splitFrame] at h
  · simp [splitFrame] at h
  · simp [splitFrame] at h
  · simp only [splitFrame] at h
    split_ifs at h with h1 h2 hlegal hthere
    cases t with
    | nil => simp at h
    | cons cmd d =>
      obtain rfl := Except.ok.inj h
      simp only [not_not] at h1 h2
      have hcount : frameLength (d.take (len.toNat - 1)) = len.toNat := by
        simp only [List.length_cons, frameLength, List.length_take] at hthere ⊢
        omega
      simp [frameBytes, hcount, h1, h2]

/-- 30/R53: command and body are those of an addressed frame exactly where they are laid out as one. -/
theorem splitAddressed_eq_some_iff (cmd : Byte) (body : List Byte) (addr : Addr) (p : AddressedPayload) :
    splitAddressed cmd body = some (addr, p) ↔
      cmd = p.command.code ∧ body = hi8 addr :: lo8 addr :: p.bytes := by
  constructor
  · intro h
    simp only [splitAddressed] at h
    split at h
    case h_3 => simp at h
    all_goals
      rename_i hcmd
      obtain ⟨rfl, rfl⟩ := Prod.mk.inj (Option.some.inj h)
      exact ⟨(WireCommand.ofCode_eq_some_iff _ _).mp hcmd,
        by simp [hi8_addrOf, lo8_addrOf, AddressedPayload.bytes]⟩
  · rintro ⟨rfl, rfl⟩
    have hcmd := (WireCommand.ofCode_eq_some_iff p.command.code p.command).mpr rfl
    cases p with
    | data | wordCount =>
      simp only [AddressedPayload.command] at hcmd ⊢
      simp [splitAddressed, hcmd, AddressedPayload.bytes, addrOf_hi8_lo8]

/-! #### The rows a frame is read as -/

/-- 30/R50, R56, R57: whichever row a frame from the display is read as, its bytes are the frame's. -/
theorem encode_inboundRow (c : Config) (cmd : Byte) (body : List Byte) :
    encode c (inboundRow cmd body) = frameBytes c cmd body := by
  simp only [inboundRow]
  split
  · rename_i hack
    obtain ⟨rfl, rfl⟩ := hack
    rfl
  · split
    · rename_i hcmd
      subst hcmd
      split
      · simp [encode, reportBody, hi8_addrOf, lo8_addrOf]
      · rfl
    · rfl

theorem inboundRow_ack : inboundRow WireCommand.writevar.code ackBody = .frameWriteAck := rfl

theorem inboundRow_report (addr : Addr) (w : Byte) (data : List Byte) :
    inboundRow WireCommand.readvar.code (reportBody addr w data) = .frameReadvarReport addr w data := by
  have hcmd : WireCommand.readvar.code ≠ WireCommand.writevar.code := by decide
  simp [inboundRow, hcmd, reportBody, addrOf_hi8_lo8]

theorem encode_outboundRow (c : Config) (addr : Addr) (p : AddressedPayload) :
    encode c (outboundRow addr p) = addressedBytes c addr p := by
  cases p <;> rfl

theorem encode_hostRow (c : Config) (addr : Addr) (p : AddressedPayload) :
    encode c (hostRow addr p) = addressedBytes c addr p := by
  cases p <;> rfl

/-! #### From the encoder to the decoder -/

theorem legalBody_iff (c : Config) (body : List Byte) :
    legalBody c body = true ↔ 3 ≤ frameLength body ∧ frameLength body ≤ c.maxBuffer := by
  simp [legalBody]

/-- 30/R50: a legal frame from the display is read as its row, and what follows it is left. -/
theorem decodeInbound_frameBytes (c : Config) (cmd : Byte) (body rest : List Byte) (i : Instr)
    (hrow : inboundRow cmd body = i) (h : legalBody c body = true) :
    decodeInbound c (frameBytes c cmd body ++ rest) = .ok (i, rest) := by
  obtain ⟨hmin, hmax⟩ := (legalBody_iff c body).mp h
  simp only [decodeInbound, hrow,
    splitFrame_frameBytes c c.maxBuffer cmd body rest (Laws.WordsBounded.maxBuffer_le c) hmin hmax]

/-- 30/R53, 41/R98: a frame of the TX encoder is read as its row, and what follows it is left. -/
theorem decodeOutgoing_addressedBytes (c : Config) (row : Addr → AddressedPayload → Instr) (addr : Addr)
    (p : AddressedPayload) (rest : List Byte) (h : p.bytes.length ≤ 252) :
    decodeOutgoing c row (addressedBytes c addr p ++ rest) = .ok (row addr p, rest) := by
  have hlen : frameLength (hi8 addr :: lo8 addr :: p.bytes) = p.bytes.length + 3 := rfl
  have hsplit := splitFrame_frameBytes c 255 p.command.code (hi8 addr :: lo8 addr :: p.bytes) rest
    (Nat.le_refl _) (by omega) (by omega)
  have hrow := (splitAddressed_eq_some_iff _ _ addr p).mpr ⟨rfl, rfl⟩
  simp only [decodeOutgoing, addressedBytes_eq_frameBytes, hsplit, hrow]

/-- 41/R91: the six header bytes give their operands back. -/
theorem decodeHeader_headerBytes (c : Config) (addr : Addr) (cmd : WireCommand) (size : Nat)
    (rest : List Byte) (h : size ≤ 252) :
    decodeHeader c (headerBytes c addr cmd size ++ rest) = .ok (.txHeader addr cmd size, rest) := by
  have hlen := toNat_lengthByte (size + 3) (by omega)
  have hcmd := (WireCommand.ofCode_eq_some_iff cmd.code cmd).mpr rfl
  simp [headerBytes, decodeHeader, hlen, hcmd, addrOf_hi8_lo8]

/-- 40/R76, 30/R59: with the length byte of its body as `explen`, RX.BODY takes its bytes and no more. -/
theorem decodeRx_body (c : Config) (cmd : Byte) (body rest : List Byte) (h : legalBody c body = true) :
    decodeRx c .awaitingBody (BitVec.ofNat 8 (frameLength body)) (cmd :: body ++ rest) =
      .ok (.rxBody cmd body, rest) := by
  obtain ⟨-, hmax⟩ := (legalBody_iff c body).mp h
  have hlen := toNat_lengthByte (frameLength body) (hmax.trans (Laws.WordsBounded.maxBuffer_le c))
  have hthere : ¬ (body ++ rest).length + 1 < frameLength body := by
    simp only [List.length_append, frameLength]
    omega
  simp only [List.cons_append, decodeRx, hlen, if_neg hthere]
  simp [frameLength]

/-- Settles O48, by the place the instruction is read at: the receive stream, a header, a frame either way,
or a command byte. -/
theorem decodeOfEncode : Obligations.DecodeOfEncode := by
  intro c i at_ rest hwf hhome
  cases i with
  | service | rxOverrun | rxHold | padsplit | txWritestr | txWritestrRom | frameAddressed =>
    simp [Instr.homeContext] at hhome
  | rxIdleH1 | rxIdleDrop | rxH1SeenH2 | rxH1SeenMiss | rxH2SeenAccept | rxH2SeenReject =>
    obtain rfl := Option.some.inj hhome
    simp_all [Instr.wellFormed, decode, decodeRx, encode]
  | rxBody cmd body =>
    obtain rfl := Option.some.inj hhome
    exact decodeRx_body c cmd body rest hwf
  | txHeader addr cmd size =>
    obtain rfl := Option.some.inj hhome
    exact decodeHeader_headerBytes c addr cmd size rest (of_decide_eq_true hwf)
  | txRead addr n =>
    obtain rfl := Option.some.inj hhome
    exact decodeOutgoing_addressedBytes c hostRow addr (.wordCount n) rest (by simp [AddressedPayload.bytes])
  | txWrite addr d =>
    cases d with
    | none => simp [Instr.homeContext] at hhome
    | some d =>
      obtain rfl := Option.some.inj hhome
      exact decodeOutgoing_addressedBytes c hostRow addr (.data d) rest (of_decide_eq_true hwf)
  | writevar | readvar =>
    obtain rfl := Option.some.inj hhome
    rfl
  | frame cmd body =>
    simp only [Instr.homeContext, Option.ite_none_right_eq_some, Option.some.injEq] at hhome
    obtain ⟨hrow, rfl⟩ := hhome
    exact decodeInbound_frameBytes c cmd body rest _ hrow hwf
  | frameReadRequest addr n =>
    obtain rfl := Option.some.inj hhome
    exact decodeOutgoing_addressedBytes c outboundRow addr (.wordCount n) rest
      (by simp [AddressedPayload.bytes])
  | frameWriteRequest addr d =>
    obtain rfl := Option.some.inj hhome
    exact decodeOutgoing_addressedBytes c outboundRow addr (.data d) rest (of_decide_eq_true hwf)
  | frameReadvarReport addr w d =>
    obtain rfl := Option.some.inj hhome
    have hmax : d.length + 4 ≤ c.maxBuffer := of_decide_eq_true hwf
    have hlegal : legalBody c (reportBody addr w d) = true :=
      (legalBody_iff _ _).mpr ⟨Nat.le_add_left 3 (d.length + 1), hmax⟩
    exact decodeInbound_frameBytes c _ _ rest _ (inboundRow_report addr w d) hlegal
  | frameWriteAck =>
    obtain rfl := Option.some.inj hhome
    have hlegal : legalBody c ackBody = true :=
      (legalBody_iff _ _).mpr ⟨Nat.le_refl 3, Nat.le_add_right 3 _⟩
    exact decodeInbound_frameBytes c _ _ rest _ inboundRow_ack hlegal

/-- Settles O50: an addressed frame is read by its layout, and a string write is the addressed frame of its
field. -/
theorem otherNamesDecode : Obligations.OtherNamesDecode := by
  intro c addr p text width aL aR sp rest hp hwidth
  have hstring := decodeOutgoing_addressedBytes c hostRow addr (.data (stringField text width aL aR sp)) rest
    (by rw [AddressedPayload.bytes, stringField_length]; exact hwidth)
  exact ⟨decodeOutgoing_addressedBytes c outboundRow addr p rest hp, hstring, hstring⟩

/-! #### From the decoder to the encoder -/

/-- 30/R59: each row of the decode table consumes the bytes of its operation. -/
theorem encode_of_decodeRx (c : Config) (st : RxState) (explen : Byte) (bytes rest : List Byte) (i : Instr)
    (h : decodeRx c st explen bytes = .ok (i, rest)) : encode c i ++ rest = bytes := by
  cases bytes with
  | nil => simp [decodeRx] at h
  | cons b t =>
    cases st with
    | idle | header1Seen | header2Seen | awaitingBody =>
      simp only [decodeRx] at h
      split at h <;>
      · obtain ⟨rfl, rfl⟩ := Prod.mk.inj (Except.ok.inj h)
        simp_all [encode]

/-- 30/R52: the command bytes. -/
theorem encode_of_decodeCommand (c : Config) (bytes rest : List Byte) (i : Instr)
    (h : decodeCommand bytes = .ok (i, rest)) : encode c i ++ rest = bytes := by
  cases bytes with
  | nil => simp [decodeCommand] at h
  | cons b t =>
    simp only [decodeCommand] at h
    cases hcmd : WireCommand.ofCode b with
    | none => simp [hcmd] at h
    | some k =>
      obtain rfl := (WireCommand.ofCode_eq_some_iff b k).mp hcmd
      cases k with
      | writevar | readvar =>
        obtain ⟨rfl, rfl⟩ := Prod.mk.inj (Except.ok.inj h)
        rfl

/-- 30/R50: a frame from the display. -/
theorem encode_of_decodeInbound (c : Config) (bytes rest : List Byte) (i : Instr)
    (h : decodeInbound c bytes = .ok (i, rest)) : encode c i ++ rest = bytes := by
  simp only [decodeInbound] at h
  split at h
  · simp at h
  · rename_i f hsplit
    obtain ⟨rfl, rfl⟩ := Prod.mk.inj (Except.ok.inj h)
    rw [encode_inboundRow]
    exact frameBytes_of_splitFrame c _ bytes f hsplit

/-- 30/R53: a frame to the display, read by either table of rows: all it needs of `row` is that a row has the
bytes of its layout. -/
theorem encode_of_decodeOutgoing (c : Config) (row : Addr → AddressedPayload → Instr)
    (hrow : ∀ addr p, encode c (row addr p) = addressedBytes c addr p) (bytes rest : List Byte) (i : Instr)
    (h : decodeOutgoing c row bytes = .ok (i, rest)) : encode c i ++ rest = bytes := by
  simp only [decodeOutgoing] at h
  split at h
  · simp at h
  · rename_i f hsplit
    split at h
    · simp at h
    · rename_i addr p haddr
      obtain ⟨rfl, rfl⟩ := Prod.mk.inj (Except.ok.inj h)
      obtain ⟨hcmd, hbody⟩ := (splitAddressed_eq_some_iff _ _ _ _).mp haddr
      rw [hrow, addressedBytes_eq_frameBytes, ← hcmd, ← hbody]
      exact frameBytes_of_splitFrame c _ bytes f hsplit

/-- 41/R91: the header. -/
theorem encode_of_decodeHeader (c : Config) (bytes rest : List Byte) (i : Instr)
    (h : decodeHeader c bytes = .ok (i, rest)) : encode c i ++ rest = bytes := by
  unfold decodeHeader at h
  split at h
  · rename_i m1 m2 len cmd hi lo t
    split_ifs at h with h1 h2 hlen
    split at h
    · simp at h
    · rename_i k hcmd
      obtain ⟨rfl, rfl⟩ := Prod.mk.inj (Except.ok.inj h)
      simp only [not_not] at h1 h2
      have hsize : len.toNat - 3 + 3 = len.toNat := by omega
      have hcode := (WireCommand.ofCode_eq_some_iff _ _).mp hcmd
      simp [encode, headerBytes, hsize, h1, h2, hcode, hi8_addrOf, lo8_addrOf]
  · simp at h
  · simp at h

/-- Settles O49, place by place. -/
theorem encodeOfDecode : Obligations.EncodeOfDecode := by
  intro c at_ bytes rest i h
  cases at_ with
  | rx st explen => exact encode_of_decodeRx c st explen bytes rest i h
  | command => exact encode_of_decodeCommand c bytes rest i h
  | inbound => exact encode_of_decodeInbound c bytes rest i h
  | outbound => exact encode_of_decodeOutgoing c outboundRow (encode_outboundRow c) bytes rest i h
  | host => exact encode_of_decodeOutgoing c hostRow (encode_hostRow c) bytes rest i h
  | header => exact encode_of_decodeHeader c bytes rest i h

/-- Settles O47: the command bytes by running the decoder; the frames are the layouts of their rows, which
decode back under every configuration. -/
theorem knownWordsDecode : Obligations.KnownWordsDecode := by
  intro c
  have hack := decodeOfEncode c .frameWriteAck .inbound [] rfl rfl
  have hread := decodeOfEncode c (.frameReadRequest 0x1234#16 0x02#8) .outbound [] rfl rfl
  have hwrite := decodeOfEncode c (.txWrite 0x1000#16 (some [0x01#8, 0x02#8])) .host [] rfl rfl
  refine ⟨rfl, rfl, ?_, hread, hwrite⟩
  have hbytes : encode c .frameWriteAck ++ [] = [c.h1, c.h2, 0x03#8, 0x82#8, 0x4F#8, 0x4B#8] := rfl
  rw [hbytes] at hack
  simp only [decodeWord, hack]

end Sys2Proof

namespace Sys2Proof.Machine

/-! #### The decode table as steps of the byte loop -/

/-- 40/R70: where the block moves in its byte loop, the step runs the operation the decode table selects. -/
theorem step_of_decodeRx_ok (s : State) (i : Instr) (rest : List Byte) (hmoves : s.blockMoves)
    (hscan : s.scanning = true) (h : decodeRx s.cfg s.st s.explen s.rxq = .ok (i, rest)) :
    step s = exec i s := by
  have hphase : s.phase = .scan ∨ s.phase = .handOff := by simpa [State.scanning] using hscan
  have hrun : s.blockStep = .run i s := by
    rcases hphase with hphase | hphase <;> simp [State.blockStep, hphase, decode, h]
  exact step_of_run s s i ((fetch_of_blockMoves s hmoves).trans hrun)

/-- 40/R70: with no byte there the invocation ends. -/
theorem step_of_noByte (s : State) (hmoves : s.blockMoves) (hscan : s.scanning = true) (hq : s.rxq = []) :
    step s = .next s.endService := by
  have hphase : s.phase = .scan ∨ s.phase = .handOff := by simpa [State.scanning] using hscan
  have hend : s.blockStep = .become s.endService := by
    rcases hphase with hphase | hphase <;> simp [State.blockStep, hphase, decode, decodeRx, hq]
  exact step_of_become s _ ((fetch_of_blockMoves s hmoves).trans hend)

/-- 40/R72: in Idle, RX.IDLE_h1 or RX.IDLE_drop takes the byte. -/
theorem step_idle (s : State) (b : Byte) (t : List Byte) (hmoves : s.blockMoves) (hscan : s.scanning = true)
    (hq : s.rxq = b :: t) (hst : s.st = .idle) :
    step s = .next { s with
      rxq := t, st := if b = s.cfg.h1 then .header1Seen else .idle, phase := .scan } := by
  by_cases hb : b = s.cfg.h1
  · rw [step_of_decodeRx_ok s .rxIdleH1 t hmoves hscan (by simp [decodeRx, hq, hst, hb]), if_pos hb]
    exact rxByteArm_next .idle _ _ s b t hscan hst hq (by simp [hb])
  · rw [step_of_decodeRx_ok s (.rxIdleDrop b) t hmoves hscan (by simp [decodeRx, hq, hst, hb]), if_neg hb]
    exact rxByteArm_next .idle _ _ s b t hscan hst hq (by simp [hb])

/-- 40/R73: in Header1Seen, RX.H1SEEN_h2 or RX.H1SEEN_miss takes the byte. -/
theorem step_header1Seen (s : State) (b : Byte) (t : List Byte) (hmoves : s.blockMoves)
    (hscan : s.scanning = true) (hq : s.rxq = b :: t) (hst : s.st = .header1Seen) :
    step s = .next { s with
      rxq := t, st := if b = s.cfg.h2 then .header2Seen else .idle, phase := .scan } := by
  by_cases hb : b = s.cfg.h2
  · rw [step_of_decodeRx_ok s .rxH1SeenH2 t hmoves hscan (by simp [decodeRx, hq, hst, hb]), if_pos hb]
    exact rxByteArm_next .header1Seen _ _ s b t hscan hst hq (by simp [hb])
  · rw [step_of_decodeRx_ok s (.rxH1SeenMiss b) t hmoves hscan (by simp [decodeRx, hq, hst, hb]), if_neg hb]
    exact rxByteArm_next .header1Seen _ _ s b t hscan hst hq (by simp [hb])

/-- 40/R74, an accepted length. -/
theorem step_header2Seen_legal (s : State) (b : Byte) (t : List Byte) (hmoves : s.blockMoves)
    (hscan : s.scanning = true) (hq : s.rxq = b :: t) (hst : s.st = .header2Seen)
    (hlegal : legalLength s.cfg b = true) :
    step s = .next { s with rxq := t, st := .awaitingBody, explen := b, phase := .scan } := by
  rw [step_of_decodeRx_ok s (.rxH2SeenAccept b) t hmoves hscan (by simp [decodeRx, hq, hst, hlegal])]
  exact rxByteArm_next .header2Seen _ _ s b t hscan hst hq (by simp [hlegal])

/-- 40/R74, a rejected length. -/
theorem step_header2Seen_illegal (s : State) (b : Byte) (t : List Byte) (hmoves : s.blockMoves)
    (hscan : s.scanning = true) (hq : s.rxq = b :: t) (hst : s.st = .header2Seen)
    (hlegal : legalLength s.cfg b = false) :
    step s = .next { s with rxq := t, st := .idle, phase := .scan } := by
  rw [step_of_decodeRx_ok s (.rxH2SeenReject b) t hmoves hscan (by simp [decodeRx, hq, hst, hlegal])]
  exact rxByteArm_next .header2Seen _ _ s b t hscan hst hq (by simp [hlegal])

/-- 40/R75: where the frame is held, RX.HOLD ends the invocation. -/
theorem execRxHold_next (s : State) (hscan : s.scanning = true) (hheld : s.held) :
    execRxHold s = .next s.endService :=
  if_pos ⟨hscan, hheld⟩

/-- 40/R76: where the framer awaits exactly these bytes and `buf` has room, RX.BODY hands them off. -/
theorem execRxBody_next (s : State) (cmd : Byte) (body rest : List Byte) (hscan : s.scanning = true)
    (hst : s.st = .awaitingBody) (hq : s.rxq = cmd :: body ++ rest)
    (hlen : body.length + 1 = s.explen.toNat) (hroom : body.length ≤ s.cfg.maxBuffer) :
    execRxBody cmd body s = .next { s with
      rxq := rest, st := .idle, init := true, dlog := s.dlog ++ [⟨cmd, body⟩],
      buf := Memory.writeAll 0 body s.buf, phase := .handOff } := by
  have hcount : s.explen.toNat - 1 = body.length := by omega
  have hthere : s.explen.toNat ≤ s.rxAvail := by
    simp only [State.rxAvail, hq, List.length_append, List.length_cons]
    omega
  have htake : s.rxq.take s.explen.toNat = cmd :: body := by simp [hq, ← hlen]
  rw [execRxBody, if_pos ⟨hscan, hst, hthere, htake⟩,
    receiveFrame_eq s cmd (body ++ rest) hq (by simp [hcount]) (by omega)]
  simp [hcount, State.setPhase]

/-- 40/R75: with a byte there, but fewer than `explen`, nothing is consumed. -/
theorem step_awaitingBody_short (s : State) (b : Byte) (t : List Byte) (hmoves : s.blockMoves)
    (hscan : s.scanning = true) (hq : s.rxq = b :: t) (hst : s.st = .awaitingBody)
    (hshort : t.length + 1 < s.explen.toNat) : step s = .next s.endService := by
  have hheld : s.held := ⟨hst, by simp [State.rxAvail, hq], by simpa [State.rxAvail, hq] using hshort⟩
  rw [step_of_decodeRx_ok s .rxHold (b :: t) hmoves hscan (by simp [decodeRx, hq, hst, hshort])]
  exact execRxHold_next s hscan hheld

/-- 40/R76: with `explen` bytes there, they are consumed and handed off. -/
theorem step_awaitingBody_there (s : State) (b : Byte) (t : List Byte) (hmoves : s.blockMoves)
    (hscan : s.scanning = true) (hq : s.rxq = b :: t) (hst : s.st = .awaitingBody)
    (hlegal : legalLength s.cfg s.explen = true) (hthere : s.explen.toNat ≤ t.length + 1) :
    step s = .next { s with
      rxq := t.drop (s.explen.toNat - 1), st := .idle, init := true,
      dlog := s.dlog ++ [⟨b, t.take (s.explen.toNat - 1)⟩],
      buf := Memory.writeAll 0 (t.take (s.explen.toNat - 1)) s.buf, phase := .handOff } := by
  obtain ⟨hmin, hmax⟩ := (legalLength_iff _ _).mp hlegal
  have hbody : (t.take (s.explen.toNat - 1)).length = s.explen.toNat - 1 := by
    rw [List.length_take]
    omega
  rw [step_of_decodeRx_ok s (.rxBody b (t.take (s.explen.toNat - 1))) (t.drop (s.explen.toNat - 1)) hmoves hscan
    (by simp [decodeRx, hq, hst, Nat.not_lt.mpr hthere])]
  exact execRxBody_next s b _ _ hscan hst (by simp [hq]) (by omega) (by omega)

/-- Settles O23: one lemma for each row; what RX.BODY leaves in `buf` is read off the run of writes. -/
theorem decodeTableRows : Obligations.DecodeTableRows := by
  refine ⟨step_of_noByte, ?_⟩
  intro s b t hmoves hscan hq
  refine ⟨step_idle s b t hmoves hscan hq, step_header1Seen s b t hmoves hscan hq, ?_, ?_,
    step_awaitingBody_short s b t hmoves hscan hq, ?_⟩
  · intro hst hmin hmax
    exact step_header2Seen_legal s b t hmoves hscan hq hst ((legalLength_iff _ _).mpr ⟨hmin, hmax⟩)
  · intro hst hout
    have hillegal : legalLength s.cfg b = false := by
      rw [← Bool.not_eq_true, legalLength_iff]
      omega
    exact step_header2Seen_illegal s b t hmoves hscan hq hst hillegal
  · intro hst hmin hmax hthere
    have hlegal := (legalLength_iff s.cfg s.explen).mpr ⟨hmin, hmax⟩
    have hbody : (t.take (s.explen.toNat - 1)).length = s.explen.toNat - 1 := by
      rw [List.length_take]
      omega
    refine ⟨_, step_awaitingBody_there s b t hmoves hscan hq hst hlegal hthere, ?_, ?_⟩
    · intro i hi
      have hread := Memory.read_writeAll_same (t.take (s.explen.toNat - 1)) 0 i s.buf (by omega)
      rwa [Nat.zero_add, List.getElem?_take_of_lt hi] at hread
    · intro i hi
      exact Memory.read_writeAll_other _ 0 i s.buf (.inr (by omega))

/-! #### The word first in line -/

/-- Settles O8: the word or operation first in line is performed in the state with it taken off. -/
theorem stepRunsDecodedWord : Obligations.StepRunsDecodedWord := by
  intro s w rest hfirst
  refine ⟨fun bytes i hp hdec => ?_, fun bytes e hp hdec => ?_, fun i hp => ?_⟩
  · have hfetch := fetch_of_pending s _ rest hp hfirst
    simp only [State.perform, State.setPending_cfg, hdec] at hfetch
    exact step_of_run s _ i hfetch
  · have hfetch := fetch_of_pending s _ rest hp hfirst
    simp only [State.perform, State.setPending_cfg, hdec] at hfetch
    exact step_of_stop s _ hfetch
  · exact step_of_run s _ i (fetch_of_pending s _ rest hp hfirst)

/-! #### The rows that are bytes on the wire -/

/-- Settles O44: the two rows append their command's code, by definition. -/
theorem commandBytesArrive : Obligations.CommandBytesArrive := fun _ => ⟨rfl, rfl⟩

/-- 30/R50: a datagram whose length fits its byte arrives. -/
theorem receiveDatagram_next (cmd : Byte) (body : List Byte) (s : State) (h : body.length ≤ 254) :
    receiveDatagram cmd body s = .next { s with rxq := s.rxq ++ frameBytes s.cfg cmd body } :=
  if_pos (Nat.succ_le_succ h)

/-- 30/R50: no length byte announces a longer one. -/
theorem receiveDatagram_refused (cmd : Byte) (body : List Byte) (s : State) (h : 254 < body.length) :
    receiveDatagram cmd body s = .refused .frameTooLong :=
  if_neg (Nat.not_le.mpr (Nat.succ_lt_succ h))

/-- Settles O45: the three rows are datagrams, the report's body three bytes longer than its data. -/
theorem inboundFramesArrive : Obligations.InboundFramesArrive := by
  intro s cmd body addr w data
  refine ⟨receiveDatagram_next cmd body s, receiveDatagram_refused cmd body s, fun h => ?_, fun h => ?_, ?_⟩
  · exact receiveDatagram_next WireCommand.readvar.code (reportBody addr w data) s (Nat.add_le_add_right h 3)
  · exact receiveDatagram_refused WireCommand.readvar.code (reportBody addr w data) s (Nat.add_lt_add_right h 3)
  · exact receiveDatagram_next WireCommand.writevar.code ackBody s (by decide)

/-- 41/R98: an outgoing frame within the contract goes out. -/
theorem sendDatagram_next (addr : Addr) (p : AddressedPayload) (s : State) (hs : s.txAllowed = true)
    (h : p.bytes.length ≤ 252) :
    sendDatagram addr p s = .next { s with txq := s.txq ++ addressedBytes s.cfg addr p } := by
  simp [sendDatagram, txOperation, hs, Config.maxPayload, Nat.not_lt.mpr h, Result.ofExcept, State.setTxq]

/-- 41/R98: beyond the contract it is refused. -/
theorem sendDatagram_refused (addr : Addr) (p : AddressedPayload) (s : State) (hs : s.txAllowed = true)
    (h : 252 < p.bytes.length) : sendDatagram addr p s = .refused .sizeContract := by
  simp [sendDatagram, txOperation, hs, Config.maxPayload, h, Result.ofExcept]

/-- 41/R92: TX.READ sends the read request. -/
theorem execTxRead_next (addr : Addr) (n : Byte) (s : State) (hs : s.txAllowed = true) :
    execTxRead addr n s = .next { s with txq := s.txq ++ addressedBytes s.cfg addr (.wordCount n) } := by
  simp [execTxRead, txOperation, hs, Result.ofExcept, sendHeader_eq, State.txWrite, State.setTxq,
    addressedBytes, AddressedPayload.command, AddressedPayload.bytes]

/-- 41/R93: TX.WRITE of a present payload within the contract sends the write request. -/
theorem execTxWrite_next (addr : Addr) (d : List Byte) (s : State) (hs : s.txAllowed = true)
    (h : d.length ≤ 252) :
    execTxWrite addr (some d) s = .next { s with txq := s.txq ++ addressedBytes s.cfg addr (.data d) } := by
  simp [execTxWrite, txOperation, hs, sendData_eq addr ⟨.ram, d⟩ s h, Result.ofExcept, State.setTxq]

/-- Settles O46: the frame rows and the TX operations send the same addressed frame. -/
theorem outgoingFramesAreOperations : Obligations.OutgoingFramesAreOperations := by
  intro s addr n d hs
  refine ⟨fun h => ?_, fun h => ?_⟩
  · have hrefused := sendDatagram_refused addr (.data d) s hs h
    exact ⟨hrefused, hrefused⟩
  · have hread := sendDatagram_next addr (.wordCount n) s hs (by simp [AddressedPayload.bytes])
    have hwrite := sendDatagram_next addr (.data d) s hs h
    have hbytes := (List.append_assoc s.txq (headerBytes s.cfg addr .writevar d.length) d).symm
    exact ⟨_, _, hread, execTxRead_next addr n s hs, hread, rfl,
      hwrite, execTxWrite_next addr d s hs h, hwrite, congrArg s.setTxq hbytes⟩

end Sys2Proof.Machine

/-! ### What can stop a step: no fault, and never a read of an empty transport (40/R80, R81) -/

namespace Sys2Proof.Machine

/-- The outcome is neither a fault nor the refusal of `rx_read` on an empty transport. -/
def Result.Orderly (r : Result) : Prop := (∀ f, r ≠ .fault f) ∧ r ≠ .refused .rxReadEmpty

@[simp] theorem Result.orderly_next (t : State) : Result.Orderly (.next t) := ⟨nofun, nofun⟩

@[simp] theorem Result.orderly_refused (r : Refusal) : Result.Orderly (.refused r) ↔ r ≠ .rxReadEmpty := by
  simp [Result.Orderly]

/-- 20/R33: a one-byte operation reads only where a byte is there. -/
theorem rxByteArm_orderly (st : RxState) (inClass : Byte → Bool) (effect : Byte → State → State)
    (s : State) : Result.Orderly (rxByteArm st inClass effect s) := by
  unfold rxByteArm
  split
  · rename_i henabled
    obtain ⟨-, -, havail⟩ := henabled
    cases hq : s.rxq with
    | nil => simp [State.rxAvail, hq] at havail
    | cons b t =>
      rw [State.rxRead_cons s b t hq]
      dsimp only
      split <;> simp
  · simp

/-- A TX operation whose sending stops on the size contract only. -/
theorem txOperation_orderly (send : State → Except Stop State) (s : State)
    (h : ∀ e, send s = .error e → e = .refusal .sizeContract) : Result.Orderly (txOperation send s) := by
  unfold txOperation
  split
  · cases hsend : send s with
    | ok t => simp [Result.ofExcept]
    | error e => simp [h e hsend, Result.ofExcept]
  · simp

theorem sendData_error (addr : Addr) (src : Source) (s : State) (e : Stop)
    (h : sendData addr src s = .error e) : e = .refusal .sizeContract := by
  by_cases hlen : src.bytes.length ≤ 252
  · simp [sendData_eq addr src s hlen] at h
  · simpa [sendData_refused addr src s (by omega)] using h.symm

theorem sendString_error (addr : Addr) (src : Source) (width : Nat) (aL aR sp : Bool) (s : State) (e : Stop)
    (h : sendString addr src width aL aR sp s = .error e) : e = .refusal .sizeContract := by
  by_cases hlen : width ≤ 252
  · simp [sendString_eq addr src width aL aR sp s hlen] at h
  · simpa [sendString_refused addr src width aL aR sp s (by omega)] using h.symm

/-- 41/R97, R98: a TX operation with an optional payload stops where sending a present one does. -/
theorem optional_orderly (payload : Option (List Byte)) (send : List Byte → State → Except Stop State)
    (s : State) (h : ∀ d e, send d s = .error e → e = .refusal .sizeContract) :
    Result.Orderly
      (txOperation (fun s => match payload with | none => .ok s | some d => send d s) s) := by
  cases payload with
  | none => exact txOperation_orderly _ s (by simp)
  | some d => exact txOperation_orderly _ s (h d)

theorem sendDatagram_orderly (addr : Addr) (p : AddressedPayload) (s : State) :
    Result.Orderly (sendDatagram addr p s) := by
  refine txOperation_orderly _ s fun e h => ?_
  split at h
  · simpa using h.symm
  · simp at h

theorem receiveDatagram_orderly (cmd : Byte) (body : List Byte) (s : State) :
    Result.Orderly (receiveDatagram cmd body s) := by
  unfold receiveDatagram
  split <;> simp

/-- Every operation but RX.BODY, from any state: only RX.BODY reads more than one byte, or touches `buf`. -/
theorem exec_orderly_of_ne_rxBody (i : Instr) (s : State) (hi : ∀ cmd body, i ≠ .rxBody cmd body) :
    Result.Orderly (exec i s) := by
  cases i with
  | service => simp only [exec, execService]; split <;> simp
  | rxOverrun => simp only [exec, execRxOverrun]; split <;> simp
  | rxIdleH1 | rxIdleDrop | rxH1SeenH2 | rxH1SeenMiss | rxH2SeenAccept | rxH2SeenReject =>
    exact rxByteArm_orderly _ _ _ s
  | rxHold => simp only [exec, execRxHold]; split <;> simp
  | rxBody cmd body => exact absurd rfl (hi cmd body)
  | txHeader => simp [exec, execTxHeader]
  | txRead addr n => simp only [exec, execTxRead]; exact txOperation_orderly _ s (by simp)
  | txWrite addr d => exact optional_orderly d _ s fun d e => sendData_error addr ⟨.ram, d⟩ s e
  | txWritestr addr d width aL aR sp =>
    exact optional_orderly d _ s fun d e => sendString_error addr ⟨.ram, d⟩ width aL aR sp s e
  | txWritestrRom addr d width aL aR sp =>
    exact optional_orderly d _ s fun d e => sendString_error addr ⟨.rom, d⟩ width aL aR sp s e
  | padsplit => simp only [exec, execPadsplit]; split <;> simp
  | writevar | readvar => exact Result.orderly_next _
  | frame | frameReadvarReport => exact receiveDatagram_orderly _ _ s
  | frameWriteAck => exact receiveDatagram_orderly WireCommand.writevar.code ackBody s
  | frameAddressed | frameReadRequest | frameWriteRequest => exact sendDatagram_orderly _ _ s

/-- 40/R76, 10/R21: with an accepted length awaited, RX.BODY runs through where it is enabled. -/
theorem execRxBody_orderly (cmd : Byte) (body : List Byte) (s : State) (hlegal : s.lengthLegal) :
    Result.Orderly (execRxBody cmd body s) := by
  by_cases henabled : s.scanning = true ∧ s.st = .awaitingBody ∧ s.explen.toNat ≤ s.rxAvail ∧
      s.rxq.take s.explen.toNat = cmd :: body
  · obtain ⟨hscan, hst, hthere, htake⟩ := henabled
    have hq : s.rxq = cmd :: body ++ s.rxq.drop s.explen.toNat := by
      rw [← htake, List.take_append_drop]
    have hlen : body.length + 1 = s.explen.toNat := by
      rw [← List.length_cons, ← htake, List.length_take_of_le hthere]
    have hmax := ((legalLength_iff _ _).mp (hlegal hst)).2
    rw [execRxBody_next s cmd body _ hscan hst hq hlen (by omega)]
    exact Result.orderly_next _
  · rw [execRxBody, if_neg henabled]
    simp

/-- 40/R81: from a state with an accepted length awaited no operation faults. -/
theorem exec_orderly (i : Instr) (s : State) (hlegal : s.lengthLegal) : Result.Orderly (exec i s) := by
  cases i with
  | rxBody cmd body => exact execRxBody_orderly cmd body s hlegal
  | _ => exact exec_orderly_of_ne_rxBody _ s (by simp)

/-- 40/R76: where the bytes are there, the loop can stop on `buf` only. -/
theorem receiveBody_error (count i : Nat) (s : State) (e : Stop) (hq : count ≤ s.rxq.length)
    (h : State.receiveBody i count s = .error e) : ∃ f, e = .fault f := by
  induction count generalizing i s with
  | zero => simp [State.receiveBody] at h
  | succ n ih =>
    cases hs : s.rxq with
    | nil => simp [hs] at hq
    | cons b t =>
      simp only [State.receiveBody, State.rxRead_cons s b t hs] at h
      by_cases hi : i < (s.setRxq t).cfg.maxBuffer
      · rw [State.bufWrite_within _ i b hi] at h
        exact ih (i + 1) _ (by simpa [hs] using hq) h
      · simp only [State.bufWrite, if_neg hi, Except.error.injEq] at h
        exact ⟨_, h.symm⟩

/-- 40/R76: where the bytes are there, RX.BODY's pseudocode can stop on `buf` only: with room for the body
it runs through. -/
theorem receiveFrame_error (s : State) (cmd : Byte) (rest : List Byte) (e : Stop) (hq : s.rxq = cmd :: rest)
    (hlen : s.explen.toNat - 1 ≤ rest.length) (h : receiveFrame s = .error e) : ∃ f, e = .fault f := by
  have hfull : ¬ s.explen.toNat - 1 ≤ s.cfg.maxBuffer := fun hroom => by
    simp [receiveFrame_eq s cmd rest hq hlen hroom] at h
  cases hbody : State.receiveBody 0 (s.explen.toNat - 1) (s.setRxq rest).markInitialized with
  | ok u =>
    have hroom := receiveBody_room _ _ _ _ hbody
    simp only [State.markInitialized, State.setInit_cfg, State.setRxq_cfg] at hroom
    omega
  | error e' =>
    simp only [receiveFrame, State.rxRead_cons s cmd rest hq, hbody, Except.error.injEq] at h
    exact h ▸ receiveBody_error _ 0 _ e' hlen hbody

/-- 40/R80: RX.BODY, whatever length is awaited, does not read beyond the bytes there. -/
theorem execRxBody_ne_rxReadEmpty (cmd : Byte) (body : List Byte) (s : State) :
    execRxBody cmd body s ≠ .refused .rxReadEmpty := by
  unfold execRxBody
  split
  · rename_i henabled
    obtain ⟨-, -, hthere, htake⟩ := henabled
    cases hframe : receiveFrame s with
    | ok t => simp
    | error e =>
      cases hq : s.rxq with
      | nil => simp [hq] at htake
      | cons b t =>
        simp only [State.rxAvail, hq, List.length_cons] at hthere
        obtain ⟨f, rfl⟩ := receiveFrame_error s b t e hq (by omega) hframe
        simp [Result.ofExcept]
  · simp

theorem exec_ne_rxReadEmpty (i : Instr) (s : State) : exec i s ≠ .refused .rxReadEmpty := by
  cases i with
  | rxBody cmd body => exact execRxBody_ne_rxReadEmpty cmd body s
  | _ => exact (exec_orderly_of_ne_rxBody _ s (by simp)).2

/-- The block's own step runs an operation in the same state, or moves the invocation on. -/
theorem blockStep_run_or_become (s : State) :
    (∃ i, s.blockStep = .run i s) ∨ ∃ t, s.blockStep = .become t :=
  (blockStep_effect s).imp_right fun ⟨t, ht, _⟩ => ⟨t, ht⟩

/-- An action runs an operation in the same state, acts without one, or is a word that decodes to no row. -/
theorem perform_cases (s : State) (a : Action) :
    (∃ i, s.perform a = .run i s) ∨ (∃ t, s.perform a = .become t) ∨
      ∃ e, s.perform a = .stop (.undecodable e) := by
  cases a with
  | op i => exact .inl ⟨i, rfl⟩
  | word bytes =>
    cases hdec : decodeWord s.cfg bytes with
    | ok i => exact .inl ⟨i, by simp [State.perform, hdec]⟩
    | error e => exact .inr (.inr ⟨e, by simp [State.perform, hdec]⟩)
  | push | overrun | onFlush | reset | dispatcher => exact .inr (.inl ⟨_, rfl⟩)
  | blockStep => exact (blockStep_run_or_become s).imp_right .inl

/-- Where the block does not move, no invocation is in progress or an action marked `within` is first in
line. -/
theorem State.of_not_blockMoves (s : State) (h : ¬ s.blockMoves) :
    s.inService = false ∨ ∃ p rest, s.pending = p :: rest ∧ p.within = true := by
  by_contra hno
  simp only [not_or, Bool.not_eq_false, not_exists, not_and, Bool.not_eq_true] at hno
  obtain ⟨hin, hfirst⟩ := hno
  refine h ⟨hin, fun p hp => ?_⟩
  obtain ⟨rest, hline⟩ := List.head?_eq_some_iff.mp hp
  exact hfirst p rest hline

/-- What a step can be, whatever its outcome: an operation on the state with some line in place of its own, a
move without an operation, or the refusal of a word that decodes to no row. -/
theorem step_cases (s : State) :
    (∃ i rest, step s = exec i { s with pending := rest }) ∨ (∃ t, step s = .next t) ∨
      ∃ e, step s = .refused (.undecodable e) := by
  have hfetch : (∃ i rest, s.fetch = .run i (s.setPending rest)) ∨ (∃ t, s.fetch = .become t) ∨
      ∃ e, s.fetch = .stop (.undecodable e) := by
    by_cases hmoves : s.blockMoves
    · rw [fetch_of_blockMoves s hmoves]
      exact (blockStep_run_or_become s).imp (fun ⟨i, hi⟩ => ⟨i, s.pending, hi⟩) .inl
    · cases hline : s.pending with
      | nil =>
        have hidle : s.inService = false := by simpa [hline] using s.of_not_blockMoves hmoves
        exact .inl ⟨.service, s.pending, fetch_of_noPending s hline hidle⟩
      | cons p rest =>
        have hfirst : s.inService = false ∨ p.within = true := by
          simpa [hline] using s.of_not_blockMoves hmoves
        rw [fetch_of_pending s p rest hline hfirst]
        exact (perform_cases (s.setPending rest) p.act).imp_left fun ⟨i, hi⟩ => ⟨i, rest, hi⟩
  rcases hfetch with ⟨i, rest, hi⟩ | ⟨t, ht⟩ | ⟨e, he⟩
  · exact .inl ⟨i, rest, step_of_run s _ i hi⟩
  · exact .inr (.inl ⟨t, step_of_become s t ht⟩)
  · exact .inr (.inr ⟨e, step_of_stop s _ he⟩)

/-- Settles O5: the one operation that touches `buf` is RX.BODY, and an accepted length fits `buf`. -/
theorem invariantExcludesFaults : Obligations.InvariantExcludesFaults := by
  intro s f hs
  obtain ⟨hlegal, -⟩ := hs
  rcases step_cases s with ⟨i, rest, hstep⟩ | ⟨t, hstep⟩ | ⟨e, hstep⟩
  · exact hstep ▸ (exec_orderly i { s with pending := rest } hlegal).1 f
  · simp [hstep]
  · simp [hstep]

/-- Settles O6: where an operation reads, its enabling condition has the bytes there. -/
theorem noStepReadsEmptyTransport : Obligations.NoStepReadsEmptyTransport := by
  intro s
  rcases step_cases s with ⟨i, rest, hstep⟩ | ⟨t, hstep⟩ | ⟨e, hstep⟩
  · exact hstep ▸ exec_ne_rxReadEmpty i _
  · simp [hstep]
  · simp [hstep]

end Sys2Proof.Machine

/-! ### SERVICE and the RX operations one by one (40/R70 to R76) -/

namespace Sys2Proof.Machine

/-! #### Which operation a step runs -/

/-- 40/R71: the condition of RX.OVERRUN; the indicator is never true where it is not supported (00/R7). -/
theorem State.overrunEnabled_iff (s : State) : s.overrunEnabled = true ↔
    s.cfg.overrunSupported = true ∧ s.rxOverrun = true ∧ s.rxq = [] := by
  simp only [State.overrunEnabled, State.rxOverrun, Bool.and_eq_true, List.isEmpty_iff]
  tauto

/-- 40/R70: the first step of an invocation. -/
theorem step_entry (s : State) (hmoves : s.blockMoves) (hphase : s.phase = .entry) :
    step s = if s.overrunEnabled = true then exec .rxOverrun s else .next s.passOverrunCheck := by
  have hfetch := fetch_of_blockMoves s hmoves
  simp only [State.blockStep, hphase] at hfetch
  split_ifs at hfetch ⊢
  · exact step_of_run s s .rxOverrun hfetch
  · exact step_of_become s _ hfetch

/-- 40/R70: where RX.OVERRUN is not enabled, the byte loop begins. -/
theorem step_entry_quiet (s : State) (hmoves : s.blockMoves) (hphase : s.phase = .entry)
    (hquiet : s.overrunEnabled = false) : step s = .next s.passOverrunCheck := by
  rw [step_entry s hmoves hphase, if_neg (by simp [hquiet])]

/-- Settles O9: the two lemmas about a step of the byte loop. -/
theorem stepRunsSelectedRxOperation : Obligations.StepRunsSelectedRxOperation := fun s hmoves hscan =>
  ⟨fun i rest hdec => step_of_decodeRx_ok s i rest hmoves hscan hdec, step_of_noByte s hmoves hscan⟩

/-- Settles O12: the two branches of SERVICE. -/
theorem serviceBeginsInvocation : Obligations.ServiceBeginsInvocation := fun _ =>
  ⟨fun hout => if_neg (by simp [State.inService, hout]), fun hin => if_pos (decide_eq_true hin)⟩

/-- Settles O14: the two outcomes of the overrun check. -/
theorem overrunCheckComesFirst : Obligations.OverrunCheckComesFirst := by
  intro s hmoves hphase
  rw [step_entry s hmoves hphase]
  exact if_congr s.overrunEnabled_iff rfl rfl

/-! #### The operations -/

/-- 40/R71: where it is enabled there is no byte for the flush to drop. -/
theorem execRxOverrun_next (s : State) (hphase : s.phase = .entry) (hover : s.overrunEnabled = true) :
    ∃ line n, execRxOverrun s =
      .next { s with st := .idle, flushes := s.flushes + 1, phase := .scan, ovr := line, draws := n } := by
  obtain ⟨-, -, hq⟩ := s.overrunEnabled_iff.mp hover
  have hnext : execRxOverrun s = .next (s.abortFrame.advanceDraw.flush.setPhase .scan) := if_pos ⟨hphase, hover⟩
  obtain ⟨k, line, n, ht⟩ := execRxOverrun_inv s _ hnext
  have hdrop : s.rxq.drop k = s.rxq := by simp [hq]
  exact ⟨line, n, by rw [hnext, ht, hdrop]⟩

/-- Settles O13: without one of the conditions the operation is not enabled. -/
theorem overrunRecoveryEffect : Obligations.OverrunRecoveryEffect := by
  intro s
  refine ⟨fun hphase hsupported hover hq =>
    execRxOverrun_next s hphase (s.overrunEnabled_iff.mpr ⟨hsupported, hover, hq⟩), fun hmissing => ?_⟩
  refine if_neg fun ⟨hphase, henabled⟩ => ?_
  obtain ⟨hsupported, hover, hq⟩ := s.overrunEnabled_iff.mp henabled
  simp [hphase, hsupported, hover, hq] at hmissing

/-- Settles O17: the two classes of byte in Idle. -/
theorem idleConsumesOneByte : Obligations.IdleConsumesOneByte := fun s b t hscan hst hq =>
  ⟨fun hb => rxByteArm_next .idle _ _ s b t hscan hst hq (by simp [hb]),
    fun hb => rxByteArm_next .idle _ _ s b t hscan hst hq (by simp [hb])⟩

/-- Settles O18: the two classes of byte in Header1Seen. -/
theorem header1SeenConsumesOneByte : Obligations.Header1SeenConsumesOneByte := fun s b t hscan hst hq =>
  ⟨fun hb => rxByteArm_next .header1Seen _ _ s b t hscan hst hq (by simp [hb]),
    fun hb => rxByteArm_next .header1Seen _ _ s b t hscan hst hq (by simp [hb])⟩

/-- Settles O19: the two classes of length byte are those of `legalLength`. -/
theorem lengthByteAcceptedOrRejected : Obligations.LengthByteAcceptedOrRejected := by
  intro s len t hscan hst hq
  refine ⟨fun hin => ?_, fun hout => ?_⟩
  · have hlegal : legalLength s.cfg len = true := (legalLength_iff _ _).mpr hin
    exact rxByteArm_next .header2Seen _ _ s len t hscan hst hq (by simp [hlegal])
  · have hillegal : legalLength s.cfg len = false := by
      rw [← Bool.not_eq_true, legalLength_iff]
      omega
    exact rxByteArm_next .header2Seen _ _ s len t hscan hst hq (by simp [hillegal])

/-- Settles O20: with a byte there it is RX.HOLD that ends the invocation, with none the decode table's empty
row. -/
theorem holdEndsInvocation : Obligations.HoldEndsInvocation := by
  intro s hscan hst
  refine ⟨fun hsome hfew => execRxHold_next s hscan ⟨hst, hsome, hfew⟩, fun hnone hmoves => ?_⟩
  exact step_of_noByte s hmoves hscan (List.eq_nil_of_length_eq_zero hnone)

/-- Settles O21: what RX.BODY leaves in `buf` is read off the run of writes. -/
theorem bodyHandsOffFrame : Obligations.BodyHandsOffFrame := by
  intro s cmd body rest hscan hst hlegal hq hlen
  obtain ⟨-, hmax⟩ := (legalLength_iff _ _).mp hlegal
  refine ⟨_, execRxBody_next s cmd body rest hscan hst hq hlen (by omega), fun i hi => ?_, fun i hi => ?_⟩
  · simpa using Memory.read_writeAll_same body 0 i s.buf hi
  · exact Memory.read_writeAll_other body 0 i s.buf (.inr (by omega))

/-- A one-byte operation is enabled in the byte loop only. -/
theorem rxByteArm_refused (st : RxState) (inClass : Byte → Bool) (effect : Byte → State → State) (s : State)
    (hscan : s.scanning = false) : rxByteArm st inClass effect s = .refused .rxNotSelected := by
  simp [rxByteArm, hscan]

/-- Settles O22: RX.OVERRUN is enabled at the entry of an invocation only, the others in its byte loop. -/
theorem noRxOperationOutsideService : Obligations.NoRxOperationOutsideService := by
  intro s b body hphase i hi
  have hscan : s.scanning = false := by simp [State.scanning, hphase]
  simp only [List.mem_cons, List.not_mem_nil, or_false] at hi
  rcases hi with rfl | rfl | rfl | rfl | rfl | rfl | rfl | rfl | rfl
  · simp [exec, execRxOverrun, hphase]
  iterate 6 exact rxByteArm_refused _ _ _ s hscan
  · simp [exec, execRxHold, hscan]
  · simp [exec, execRxBody, hscan]

end Sys2Proof.Machine

/-! ### The framer as a function of the byte sequence (40/R83) -/

namespace Sys2Proof.Machine

/-! #### `frames`, an equation for each row of the decode table -/

/-- 40/R83: each operation consumes a byte, so any fuel from the number of bytes on gives the same. -/
theorem framesFuel_eq (c : Config) (n m : Nat) (st : RxState) (explen : Byte) (bs : List Byte)
    (hn : bs.length ≤ n) (hm : bs.length ≤ m) :
    framesFuel c n st explen bs = framesFuel c m st explen bs := by
  induction n generalizing m st explen bs with
  | zero =>
    obtain rfl := List.eq_nil_of_length_eq_zero (Nat.le_zero.mp hn)
    cases m <;> rfl
  | succ n ih =>
    cases bs with
    | nil => cases m <;> rfl
    | cons b t =>
      obtain ⟨m, rfl⟩ : ∃ k, m = k + 1 := Nat.exists_eq_add_one.mpr (Nat.lt_of_lt_of_le t.length.succ_pos hm)
      have hn : t.length ≤ n := Nat.le_of_succ_le_succ hn
      have hm : t.length ≤ m := Nat.le_of_succ_le_succ hm
      have htail : ∀ st explen, framesFuel c n st explen t = framesFuel c m st explen t :=
        fun st explen => ih m st explen t hn hm
      have hdrop : ∀ k, framesFuel c n .idle explen (t.drop k) = framesFuel c m .idle explen (t.drop k) :=
        fun k => ih m .idle explen _ (by simp; omega) (by simp; omega)
      cases st <;> simp only [framesFuel, htail, hdrop]

theorem framesFuel_of_le (c : Config) (n : Nat) (st : RxState) (explen : Byte) (bs : List Byte)
    (h : bs.length ≤ n) : framesFuel c n st explen bs = frames c st explen bs :=
  framesFuel_eq c n bs.length st explen bs h le_rfl

section
variable (c : Config) (explen b : Byte) (t : List Byte)

theorem frames_nil (st : RxState) : frames c st explen [] = [] := rfl

theorem frames_idle : frames c .idle explen (b :: t) =
    frames c (if b = c.h1 then .header1Seen else .idle) explen t := by
  simp only [frames, List.length_cons, framesFuel]
  split <;> rfl

theorem frames_header1Seen : frames c .header1Seen explen (b :: t) =
    frames c (if b = c.h2 then .header2Seen else .idle) explen t := by
  simp only [frames, List.length_cons, framesFuel]
  split <;> rfl

theorem frames_header2Seen_legal (h : legalLength c b = true) :
    frames c .header2Seen explen (b :: t) = frames c .awaitingBody b t :=
  if_pos h

theorem frames_header2Seen_illegal (h : legalLength c b = false) :
    frames c .header2Seen explen (b :: t) = frames c .idle explen t :=
  if_neg (by simp [h])

end

/-- 40/R76: with the body there, it is handed off, and what follows it is read from Idle. -/
theorem frames_awaitingBody_there (c : Config) (explen cmd : Byte) (body rest : List Byte)
    (h : body.length + 1 = explen.toNat) : frames c .awaitingBody explen (cmd :: body ++ rest) =
      ⟨cmd, body⟩ :: frames c .idle explen rest := by
  have hthere : explen.toNat ≤ (body ++ rest).length + 1 := by simp; omega
  have hcount : explen.toNat - 1 = body.length := by omega
  simp only [frames, List.cons_append, List.length_cons, framesFuel, if_pos hthere, hcount, List.take_left',
    List.drop_left']
  rw [framesFuel_of_le c _ .idle explen rest (by simp)]
  rfl

/-- 40/R75: with fewer bytes than awaited, nothing is handed off. -/
theorem frames_awaitingBody_short (c : Config) (explen : Byte) (bs : List Byte)
    (h : bs.length < explen.toNat) : frames c .awaitingBody explen bs = [] := by
  cases bs with
  | nil => rfl
  | cons b t => exact if_neg (Nat.not_le.mpr h)

/-! #### What a step does to it -/

/-- The hand-offs made so far, and those the framer will make of the unread bytes and then `future`. -/
def State.handOffsWith (s : State) (future : List Byte) : List HandOff :=
  s.dlog ++ frames s.cfg s.st s.explen (s.rxq ++ future)

/-- 40/R83: but for RX.OVERRUN, an operation changes `handOffsWith` by the bytes it lets arrive only; one that
leaves a suffix of the receive stream lets none arrive. -/
theorem Effect.handOffsWith_eq {s t : State} (e : Effect s t)
    (hquiet : s.phase = .entry → s.overrunEnabled = false) :
    ∃ arrived : List Byte, (t.rxq <:+ s.rxq → arrived = []) ∧
      ∀ future, t.handOffsWith future = s.handOffsWith (arrived ++ future) := by
  cases e with
  | arrived bytes =>
    refine ⟨bytes, fun hsuffix => ?_, fun future => ?_⟩
    · simpa using hsuffix.length_le
    · simp [State.handOffsWith]
  | sent | padded | began | heldBack => exact ⟨[], fun _ => rfl, fun _ => rfl⟩
  | overran _ _ hphase hover => simp [hquiet hphase] at hover
  | idleH1 b rest _ hst hq hb | idleDrop b rest _ hst hq hb =>
    exact ⟨[], fun _ => rfl, fun _ => by simp [State.handOffsWith, hst, hq, frames_idle, hb]⟩
  | h1SeenH2 b rest _ hst hq hb | h1SeenMiss b rest _ hst hq hb =>
    exact ⟨[], fun _ => rfl, fun _ => by simp [State.handOffsWith, hst, hq, frames_header1Seen, hb]⟩
  | accepted len rest _ hst hq hlen =>
    exact ⟨[], fun _ => rfl, fun _ => by
      simp [State.handOffsWith, hst, hq, frames_header2Seen_legal _ _ _ _ hlen]⟩
  | rejected len rest _ hst hq hlen =>
    exact ⟨[], fun _ => rfl, fun _ => by
      simp [State.handOffsWith, hst, hq, frames_header2Seen_illegal _ _ _ _ hlen]⟩
  | handedOff cmd body rest _ hst hq hlen _ =>
    refine ⟨[], fun _ => rfl, fun future => ?_⟩
    have hframes := frames_awaitingBody_there s.cfg s.explen cmd body (rest ++ future) hlen
    simpa [State.handOffsWith, hst, hq] using hframes.symm

/-- The environment changes it by the bytes the wire side appends only. -/
theorem EnvEffect.handOffsWith_eq {s t : State} (e : EnvEffect s t) :
    ∃ arrived : List Byte, (t.rxq <:+ s.rxq → arrived = []) ∧
      ∀ future, t.handOffsWith future = s.handOffsWith (arrived ++ future) := by
  cases e with
  | pushed bytes =>
    refine ⟨bytes, fun hsuffix => ?_, fun future => ?_⟩
    · simpa using hsuffix.length_le
    · simp [State.handOffsWith]
  | _ => exact ⟨[], fun _ => rfl, fun _ => rfl⟩

/-! #### The steps of an invocation -/

/-- 40/R70: while the invocation is in its byte loop, a step of the block completes; it takes no bytes but the
oldest, and either some, or none and the invocation ends drained or held. -/
theorem step_byteLoop (s : State) (hlegal : s.lengthLegal) (hmoves : s.blockMoves)
    (hscan : s.scanning = true) :
    ∃ t, step s = .next t ∧ t.pending = s.pending ∧ t.cfg = s.cfg ∧ t.ovr = s.ovr ∧ t.rxq <:+ s.rxq ∧
      (t.scanning = true ∧ t.rxq.length < s.rxq.length ∨ t.phase = .outside ∧ (t.rxq = [] ∨ t.held)) := by
  cases hq : s.rxq with
  | nil => exact ⟨_, step_of_noByte s hmoves hscan hq, rfl, rfl, rfl, by simp [State.endService, hq],
      .inr ⟨rfl, .inl hq⟩⟩
  | cons b t =>
    have htail : t <:+ b :: t := List.suffix_cons b t
    have hless : t.length < (b :: t).length := Nat.lt_succ_self _
    cases hst : s.st with
    | idle => exact ⟨_, step_idle s b t hmoves hscan hq hst, rfl, rfl, rfl, htail, .inl ⟨rfl, hless⟩⟩
    | header1Seen =>
      exact ⟨_, step_header1Seen s b t hmoves hscan hq hst, rfl, rfl, rfl, htail, .inl ⟨rfl, hless⟩⟩
    | header2Seen =>
      cases hlen : legalLength s.cfg b with
      | true =>
        exact ⟨_, step_header2Seen_legal s b t hmoves hscan hq hst hlen, rfl, rfl, rfl, htail,
          .inl ⟨rfl, hless⟩⟩
      | false =>
        exact ⟨_, step_header2Seen_illegal s b t hmoves hscan hq hst hlen, rfl, rfl, rfl, htail,
          .inl ⟨rfl, hless⟩⟩
    | awaitingBody =>
      by_cases hshort : t.length + 1 < s.explen.toNat
      · refine ⟨_, step_awaitingBody_short s b t hmoves hscan hq hst hshort, rfl, rfl, rfl,
          by simp [State.endService, hq], .inr ⟨rfl, .inr ⟨hst, ?_, ?_⟩⟩⟩
        · simp [State.rxAvail, State.endService, hq]
        · simpa [State.rxAvail, State.endService, hq] using hshort
      · refine ⟨_, step_awaitingBody_there s b t hmoves hscan hq hst (hlegal hst) (Nat.not_lt.mp hshort),
          rfl, rfl, rfl, (List.drop_suffix _ t).trans htail, .inl ⟨rfl, ?_⟩⟩
        exact Nat.lt_of_le_of_lt (List.drop_suffix _ t).length_le hless

/-- 20/R49: where the block moves and no RX.OVERRUN fires, the step leaves a suffix of the receive stream. -/
theorem step_rxq_suffix_of_blockMoves (s t : State) (hlegal : s.lengthLegal) (hmoves : s.blockMoves)
    (hquiet : s.phase = .entry → s.overrunEnabled = false) (h : step s = .next t) : t.rxq <:+ s.rxq := by
  cases hphase : s.phase with
  | outside =>
    obtain ⟨hin, -⟩ := hmoves
    simp [s.inService_of_outside hphase] at hin
  | entry =>
    rw [step_entry_quiet s hmoves hphase (hquiet hphase)] at h
    exact Host.Outcome.next.inj h ▸ List.suffix_rfl
  | scan | handOff =>
    obtain ⟨u, hstep, -, -, -, hsuffix, -⟩ := step_byteLoop s hlegal hmoves (by simp [State.scanning, hphase])
    rw [hstep] at h
    exact Host.Outcome.next.inj h ▸ hsuffix

/-- 40/R83: a step of the block but RX.OVERRUN leaves `handOffsWith` as it was. -/
theorem handOffsWith_of_blockMoves (s t : State) (hlegal : s.lengthLegal) (hmoves : s.blockMoves)
    (hquiet : s.phase = .entry → s.overrunEnabled = false) (h : step s = .next t) (future : List Byte) :
    t.handOffsWith future = s.handOffsWith future := by
  rcases step_effect s t h with ⟨s0, -, hsame, he⟩ | ⟨_, _, -, -, hnot, -⟩
  · obtain rfl := hsame hmoves
    obtain ⟨arrived, hnone, hstream⟩ := he.elim (·.handOffsWith_eq hquiet) (·.handOffsWith_eq)
    obtain rfl := hnone (step_rxq_suffix_of_blockMoves s0 t hlegal hmoves hquiet h)
    exact hstream future
  · exact absurd hmoves hnot

/-- Settles O29: where the block moves nothing arrives, and any other step changes the hand-offs by its arrivals
only. -/
theorem streamDeterminesHandOffs : Obligations.StreamDeterminesHandOffs := by
  intro s t hs h hquiet hno
  by_cases hmoves : s.blockMoves
  · obtain ⟨hlegal, -⟩ := hs
    exact ⟨[], fun _ => rfl, handOffsWith_of_blockMoves s t hlegal hmoves hquiet h⟩
  · obtain ⟨rest, he⟩ := step_change_of_noReset s t h hno
    obtain ⟨arrived, -, hstream⟩ := he.elim (·.handOffsWith_eq hquiet) (·.handOffsWith_eq)
    exact ⟨arrived, fun hm => absurd hm hmoves, hstream⟩

end Sys2Proof.Machine

/-! ### A whole invocation, and invocations between the pieces of a stream (40/R79, R82, 90 C7) -/

namespace Sys2Proof.Machine

/-! #### Runs -/

/-- The first step of a run. -/
theorem run_succ {s t : State} (h : step s = .next t) (k : Nat) :
    Host.Core.run core (k + 1) s = Host.Core.run core k t := by
  have hcore : core.step s = .next t := h
  simp only [Host.Core.run, hcore]

/-- One run after another. -/
theorem run_add {s t : State} {j : Nat} (h : Host.Core.run core j s = .next t) (k : Nat) :
    Host.Core.run core (j + k) s = Host.Core.run core k t := by
  induction j generalizing s with
  | zero => rw [Nat.zero_add, ← Host.Outcome.next.inj h]
  | succ j ih =>
    cases hstep : step s with
    | next u =>
      rw [run_succ hstep] at h
      rw [Nat.succ_add, run_succ hstep, ih h]
    | fault r => simp [Host.Core.run, core, hstep] at h
    | refused r => simp [Host.Core.run, core, hstep] at h

/-! #### What the steps of an invocation keep -/

/-- `t` comes after `s`, with the invariant and without anything having moved but the block: the line, the
parameters and the overrun indicator are as they were, and the hand-offs made and to be made are the same. -/
structure State.Follows (s t : State) : Prop where
  inv : t.Inv
  pending : t.pending = s.pending
  cfg : t.cfg = s.cfg
  ovr : t.ovr = s.ovr
  stream : ∀ future, t.handOffsWith future = s.handOffsWith future

theorem State.Follows.refl {s : State} (hs : s.Inv) : s.Follows s := ⟨hs, rfl, rfl, rfl, fun _ => rfl⟩

theorem State.Follows.trans {s t u : State} (h : s.Follows t) (h' : t.Follows u) : s.Follows u :=
  ⟨h'.inv, h'.pending.trans h.pending, h'.cfg.trans h.cfg, h'.ovr.trans h.ovr,
    fun future => (h'.stream future).trans (h.stream future)⟩

theorem State.Follows.overrunQuiet {s t : State} (h : s.Follows t) (hquiet : s.overrunQuiet) : t.overrunQuiet :=
  hquiet.imp (congrArg Config.overrunSupported h.cfg).trans h.ovr.trans

/-- 20/R46: nothing in line may happen between two steps of an invocation. -/
def State.undisturbed (s : State) : Prop := ∀ p ∈ s.pending.head?, p.within = false

/-- 40/R70: where the invocation has just returned, no byte is left or a frame is held. -/
def State.returned (s : State) : Prop := s.phase = .outside ∧ (s.rxq = [] ∨ s.held)

theorem State.blockMoves_of_scanning (s : State) (hline : s.undisturbed) (hscan : s.scanning = true) :
    s.blockMoves := by
  refine ⟨?_, hline⟩
  cases hphase : s.phase <;> simp [State.scanning, State.inService, hphase] at hscan ⊢

/-- A step of the block, but RX.OVERRUN, that keeps the line, the parameters and the indicator. -/
theorem State.follows_of_step {s t : State} (hs : s.Inv) (hmoves : s.blockMoves)
    (hquiet : s.phase = .entry → s.overrunEnabled = false) (h : step s = .next t)
    (hpending : t.pending = s.pending) (hcfg : t.cfg = s.cfg) (hovr : t.ovr = s.ovr) : s.Follows t := by
  have ⟨hlegal, _⟩ := hs
  exact ⟨stepKeepsInvariant s t hs h, hpending, hcfg, hovr, handOffsWith_of_blockMoves s t hlegal hmoves hquiet h⟩

/-- 40/R70, R79: the byte loop, left alone, returns after at most one step for each byte there, and one. -/
theorem run_byteLoop (n : Nat) (s : State) (hs : s.Inv) (hline : s.undisturbed) (hscan : s.scanning = true)
    (hn : s.rxq.length < n) :
    ∃ k t, k ≤ n ∧ Host.Core.run core k s = .next t ∧ s.Follows t ∧ t.returned := by
  induction n generalizing s with
  | zero => exact absurd hn (Nat.not_lt_zero _)
  | succ n ih =>
    have ⟨hlegal, _⟩ := hs
    have hmoves : s.blockMoves := s.blockMoves_of_scanning hline hscan
    have hquiet : s.phase = .entry → s.overrunEnabled = false := fun hphase => by
      simp [State.scanning, hphase] at hscan
    obtain ⟨u, hstep, hpending, hcfg, hovr, -, hcases⟩ := step_byteLoop s hlegal hmoves hscan
    have hfollows : s.Follows u := State.follows_of_step hs hmoves hquiet hstep hpending hcfg hovr
    rcases hcases with ⟨hscan', hless⟩ | hreturned
    · obtain ⟨k, t, hk, hrun, hfollows', hreturned⟩ :=
        ih u hfollows.inv (by rwa [State.undisturbed, hpending]) hscan' (by omega)
      exact ⟨k + 1, t, by omega, (run_succ hstep k).trans hrun, hfollows.trans hfollows', hreturned⟩
    · exact ⟨1, u, by omega, run_succ hstep 0, hfollows, hreturned⟩

/-- Settles O16: after the overrun check the byte loop runs, on no more bytes than there were. -/
theorem serviceReturns : Obligations.ServiceReturns := by
  intro s hs hphase hline
  have hmoves : s.blockMoves := ⟨by simp [State.inService, hphase], by simp [hline]⟩
  obtain ⟨u, hstep, hscan, hpending, hle⟩ : ∃ u, step s = .next u ∧ u.scanning = true ∧ u.pending = [] ∧
      u.rxq.length ≤ s.rxq.length := by
    rw [step_entry s hmoves hphase]
    split_ifs with hover
    · obtain ⟨line, n, hnext⟩ := execRxOverrun_next s hphase hover
      exact ⟨_, hnext, rfl, hline, le_rfl⟩
    · exact ⟨_, rfl, rfl, hline, le_rfl⟩
  have hu : u.Inv := stepKeepsInvariant s u hs hstep
  obtain ⟨k, t, hk, hrun, -, hreturned⟩ :=
    run_byteLoop (s.rxq.length + 1) u hu (by simp [State.undisturbed, hpending]) hscan (by omega)
  exact ⟨k + 1, t, by omega, (run_succ hstep k).trans hrun, hreturned⟩

/-! #### One piece, and all of them -/

/-- 90 C7: with no overrun recovery possible, RX.OVERRUN is not enabled. -/
theorem State.overrunEnabled_of_quiet (s : State) (h : s.overrunQuiet) : s.overrunEnabled = false := by
  rcases h with h | h <;> simp [State.overrunEnabled, State.rxOverrun, h]

/-- Nothing in the line of `feedPieces` is marked `within`. -/
theorem feedPieces_undisturbed (pieces : List (List Byte)) :
    ∀ p ∈ (feedPieces pieces).head?, p.within = false := by
  cases pieces <;> simp [feedPieces]

/-- 40/R83: with the FIFO drained or a frame held, the framer makes no hand-off of the unread bytes. -/
theorem State.returned.handOffsWith_nil {s : State} (h : s.returned) : s.handOffsWith [] = s.dlog := by
  obtain ⟨-, hq | ⟨hst, -, hshort⟩⟩ := h
  · simp [State.handOffsWith, hq, frames_nil]
  · simp [State.handOffsWith, hst, frames_awaitingBody_short s.cfg s.explen s.rxq hshort]

/-- 40/R70: a piece arrives, SERVICE is invoked, and the overrun check finds nothing: the byte loop begins. -/
theorem run_pieceArrives (s : State) (piece : List Byte) (pieces : List (List Byte)) (hs : s.Inv)
    (hphase : s.phase = .outside) (hquiet : s.overrunQuiet) (hline : s.pending = feedPieces (piece :: pieces)) :
    ∃ t, Host.Core.run core 3 s = .next t ∧ t.Inv ∧ t.scanning = true ∧ t.overrunQuiet ∧
      t.pending = feedPieces pieces ∧ ∀ future, t.handOffsWith future = s.handOffsWith (piece ++ future) := by
  have hidle : s.inService = false := s.inService_of_outside hphase
  have hpush := arrivalsOnlyAppend s false piece _ hline (.inl hidle)
  have hservice : step { s with
        rxq := s.rxq ++ piece, pending := ⟨false, .op .service⟩ :: feedPieces pieces } =
      .next { s with rxq := s.rxq ++ piece, phase := .entry, pending := feedPieces pieces } := by
    obtain ⟨-, -, hop⟩ := stepRunsDecodedWord { s with
      rxq := s.rxq ++ piece, pending := ⟨false, .op .service⟩ :: feedPieces pieces } false _ (.inl hidle)
    obtain ⟨hbegins, -⟩ := serviceBeginsInvocation { s with
      rxq := s.rxq ++ piece, pending := feedPieces pieces }
    exact (hop .service rfl).trans (hbegins hphase)
  have hcheck : step { s with rxq := s.rxq ++ piece, phase := .entry, pending := feedPieces pieces } =
      .next { s with
        rxq := s.rxq ++ piece, phase := .scan, pending := feedPieces pieces, draws := s.draws + 1 } :=
    step_entry_quiet _ ⟨rfl, feedPieces_undisturbed pieces⟩ rfl (State.overrunEnabled_of_quiet _ hquiet)
  have hinv := stepKeepsInvariant _ _ (stepKeepsInvariant _ _ (stepKeepsInvariant _ _ hs hpush) hservice) hcheck
  refine ⟨_, (run_succ hpush 2).trans ((run_succ hservice 1).trans (run_succ hcheck 0)), hinv, rfl, hquiet, rfl,
    fun future => ?_⟩
  simp [State.handOffsWith]

/-- 40/R82, R83: one piece, with SERVICE after it: the invocation returns, and the piece is counted in. -/
theorem run_piece (s : State) (piece : List Byte) (pieces : List (List Byte)) (hs : s.Inv)
    (hphase : s.phase = .outside) (hquiet : s.overrunQuiet) (hline : s.pending = feedPieces (piece :: pieces)) :
    ∃ k t, Host.Core.run core k s = .next t ∧ t.Inv ∧ t.returned ∧ t.overrunQuiet ∧
      t.pending = feedPieces pieces ∧ ∀ future, t.handOffsWith future = s.handOffsWith (piece ++ future) := by
  obtain ⟨u, hbegun, hu, hscan, huquiet, hpending, hstream⟩ :=
    run_pieceArrives s piece pieces hs hphase hquiet hline
  obtain ⟨k, t, -, hrun, hfollows, hreturned⟩ := run_byteLoop _ u hu
    (by simpa [State.undisturbed, hpending] using feedPieces_undisturbed pieces) hscan (Nat.lt_succ_self _)
  exact ⟨3 + k, t, (run_add hbegun k).trans hrun, hfollows.inv, hreturned, hfollows.overrunQuiet huquiet,
    hfollows.pending.trans hpending, fun future => (hfollows.stream future).trans (hstream future)⟩

/-- 40/R82, R83: any number of pieces, after an invocation that has returned. -/
theorem run_pieces (pieces : List (List Byte)) (s : State) (hs : s.Inv) (hreturned : s.returned)
    (hquiet : s.overrunQuiet) (hline : s.pending = feedPieces pieces) :
    ∃ k t, Host.Core.run core k s = .next t ∧ t.pending = [] ∧ t.returned ∧
      t.dlog = s.handOffsWith pieces.flatten := by
  induction pieces generalizing s with
  | nil => exact ⟨0, s, rfl, hline, hreturned, hreturned.handOffsWith_nil.symm⟩
  | cons piece pieces ih =>
    obtain ⟨hphase, -⟩ := hreturned
    obtain ⟨j, u, hrun, hu, hreturned, huquiet, hpending, hstream⟩ :=
      run_piece s piece pieces hs hphase hquiet hline
    obtain ⟨k, t, hrun', hdone, hlast, hdlog⟩ := ih u hu hreturned huquiet hpending
    exact ⟨j + k, t, (run_add hrun k).trans hrun', hdone, hlast, hdlog.trans (hstream _)⟩

/-- Settles O30: the first piece brings the framer to a return, from where the others follow. -/
theorem piecesMakeNoDifference : Obligations.PiecesMakeNoDifference := by
  intro s pieces hs hphase hquiet hsome hline
  obtain ⟨piece, pieces, rfl⟩ := List.exists_cons_of_ne_nil hsome
  obtain ⟨j, u, hrun, hu, hreturned, huquiet, hpending, hstream⟩ :=
    run_piece s piece pieces hs hphase hquiet hline
  obtain ⟨k, t, hrun', hdone, ⟨hout, hsettled⟩, hdlog⟩ := run_pieces pieces u hu hreturned huquiet hpending
  exact ⟨j + k, t, (run_add hrun k).trans hrun', hdone, hout, hsettled, hdlog.trans (hstream _)⟩

end Sys2Proof.Machine

/-! ### Frames in the byte loop, byte by byte (40/R73, R82, R84) -/

namespace Sys2Proof.Machine

/-- 40/R72, R73: the two magic bytes, from Idle. -/
theorem run_header (s : State) (rest : List Byte) (hline : s.undisturbed) (hscan : s.scanning = true)
    (hst : s.st = .idle) (hq : s.rxq = s.cfg.h1 :: s.cfg.h2 :: rest) :
    Host.Core.run core 2 s = .next { s with rxq := rest, st := .header2Seen, phase := .scan } := by
  have hfirst := step_idle s _ _ (s.blockMoves_of_scanning hline hscan) hscan hq hst
  rw [if_pos rfl] at hfirst
  have hsecond := step_header1Seen { s with rxq := s.cfg.h2 :: rest, st := .header1Seen, phase := .scan } _ _
    (State.blockMoves_of_scanning _ hline rfl) rfl rfl rfl
  rw [if_pos rfl] at hsecond
  exact (run_succ hfirst 1).trans (run_succ hsecond 0)

/-- 40/R74, R84: a header with an illegal length leads back to Idle, at the very next byte. -/
theorem run_badLength (s : State) (bad : Byte) (rest : List Byte) (hline : s.undisturbed)
    (hscan : s.scanning = true) (hst : s.st = .idle) (hbad : legalLength s.cfg bad = false)
    (hq : s.rxq = s.cfg.h1 :: s.cfg.h2 :: bad :: rest) :
    Host.Core.run core 3 s = .next { s with rxq := rest, st := .idle, phase := .scan } := by
  have hreject := step_header2Seen_illegal { s with rxq := bad :: rest, st := .header2Seen, phase := .scan } _ _
    (State.blockMoves_of_scanning _ hline rfl) rfl rfl rfl hbad
  exact (run_add (run_header s _ hline hscan hst hq) 1).trans (run_succ hreject 0)

/-- 40/R82: a well-formed frame, from Idle. -/
theorem run_frame (s : State) (len cmd : Byte) (body rest : List Byte) (hline : s.undisturbed)
    (hscan : s.scanning = true) (hst : s.st = .idle) (hlegal : legalLength s.cfg len = true)
    (hlen : body.length + 1 = len.toNat) (hq : s.rxq = s.cfg.h1 :: s.cfg.h2 :: len :: cmd :: body ++ rest) :
    Host.Core.run core 4 s = .next { s with
      rxq := rest, st := .idle, explen := len, init := true, dlog := s.dlog ++ [⟨cmd, body⟩],
      buf := Memory.writeAll 0 body s.buf, phase := .handOff } := by
  obtain ⟨-, hmax⟩ := (legalLength_iff _ _).mp hlegal
  have haccept := step_header2Seen_legal
    { s with rxq := len :: (cmd :: body ++ rest), st := .header2Seen, phase := .scan } _ _
    (State.blockMoves_of_scanning _ hline rfl) rfl rfl rfl hlegal
  have hbody := step_awaitingBody_there
    { s with rxq := cmd :: (body ++ rest), st := .awaitingBody, explen := len, phase := .scan } _ _
    (State.blockMoves_of_scanning _ hline rfl) rfl rfl rfl hlegal (by simp; omega)
  have hcount : len.toNat - 1 = body.length := by omega
  simp only [hcount, List.take_left', List.drop_left'] at hbody
  exact (run_add (run_header s _ hline hscan hst hq) 2).trans ((run_succ haccept 1).trans (run_succ hbody 0))

/-- With nothing in line an invocation is undisturbed. -/
theorem State.undisturbed_of_noPending (s : State) (h : s.pending = []) : s.undisturbed := by
  simp [State.undisturbed, h]

/-- Settles O25: the final state of the frame's four steps, written out. -/
theorem wellFormedFrameAccepted : Obligations.WellFormedFrameAccepted :=
  fun s len cmd body rest hline hscan hst hlegal hlen hq =>
    ⟨_, run_frame s len cmd body rest (s.undisturbed_of_noPending hline) hscan hst hlegal hlen hq,
      rfl, rfl, rfl, rfl, rfl, rfl⟩

/-- Settles O26: three steps for the bad header, four for the frame after it. -/
theorem resynchronisesAfterBadLength : Obligations.ResynchronisesAfterBadLength := by
  intro s bad len cmd body rest hline hscan hst hbad hlegal hlen hq
  have hline := s.undisturbed_of_noPending hline
  have hframe := run_frame { s with
    rxq := s.cfg.h1 :: s.cfg.h2 :: len :: cmd :: body ++ rest, st := .idle, phase := .scan }
    len cmd body rest hline rfl rfl hlegal hlen rfl
  exact ⟨_, (run_add (run_badLength s bad _ hline hscan hst hbad hq) 4).trans hframe, rfl, rfl, rfl, rfl⟩

/-- Settles O27: the second `H1` misses, and the `H2` after it is dropped in Idle. -/
theorem strayHeaderByteLosesFrame : Obligations.StrayHeaderByteLosesFrame := by
  intro s rest hline hscan hst hne hq
  have hline := s.undisturbed_of_noPending hline
  have hfirst := step_idle s _ _ (s.blockMoves_of_scanning hline hscan) hscan hq hst
  rw [if_pos rfl] at hfirst
  have hmiss := step_header1Seen { s with
    rxq := s.cfg.h1 :: s.cfg.h2 :: rest, st := .header1Seen, phase := .scan } _ _
    (State.blockMoves_of_scanning _ hline rfl) rfl rfl rfl
  rw [if_neg hne] at hmiss
  have hdrop := step_idle { s with rxq := s.cfg.h2 :: rest, st := .idle, phase := .scan } _ _
    (State.blockMoves_of_scanning _ hline rfl) rfl rfl rfl
  rw [if_neg hne.symm] at hdrop
  exact ⟨_, (run_succ hfirst 2).trans ((run_succ hmiss 1).trans (run_succ hdrop 0)), rfl, rfl, rfl, rfl⟩

end Sys2Proof.Machine

/-! ### The TX encoder: what each operation sends, and the string field (spec/41) -/

namespace Sys2Proof

/-! #### PADSPLIT, case by case, and the string field, byte by byte -/

/-- 41/R94: the case tested first. -/
theorem padSplit_empty (width : Nat) (aL aR : Bool) : padSplit 0 width aL aR = (0, width) := rfl

theorem padSplit_centred (len width : Nat) (a : Bool) (h : 0 < len) :
    padSplit len width a a = ((width - len) / 2, width - len - (width - len) / 2) := by
  simp [padSplit, Nat.ne_of_gt h]

theorem padSplit_left (len width : Nat) (h : 0 < len) : padSplit len width true false = (0, width - len) := by
  simp [padSplit, Nat.ne_of_gt h]

theorem padSplit_right (len width : Nat) (h : 0 < len) : padSplit len width false true = (width - len, 0) := by
  simp [padSplit, Nat.ne_of_gt h]

/-- Settles O38: one equation for each case, and `padSplit_sum`. -/
theorem paddingSplitCases : Obligations.PaddingSplitCases := by
  intro len width aL aR hlt left right
  have hsum : left + right = width - len := padSplit_sum len width aL aR
  refine ⟨hsum, by omega, ?_, ?_, ?_, ?_⟩
  · rintro rfl
    exact Prod.ext_iff.mp (padSplit_empty width aL aR)
  · rintro hlen rfl
    have hsplit := padSplit_centred len width aL hlen
    exact ⟨congrArg Prod.fst hsplit, by omega⟩
  · rintro hlen rfl rfl
    exact Prod.ext_iff.mp (padSplit_left len width hlen)
  · rintro hlen rfl rfl
    exact Prod.ext_iff.mp (padSplit_right len width hlen)

/-- 41/R101: the field is the text's first bytes, or padding, text, padding. -/
theorem stringField_getElem? (text : List Byte) (width : Nat) (aL aR sp : Bool) (k : Nat) (hk : k < width) :
    (stringField text width aL aR sp)[k]? =
      if width ≤ text.length then text[k]?
      else if k < (padSplit text.length width aL aR).1 then some (padByte sp)
      else if k < (padSplit text.length width aL aR).1 + text.length then
        text[k - (padSplit text.length width aL aR).1]?
      else some (padByte sp) := by
  have hsum := padSplit_sum text.length width aL aR
  simp only [stringField]
  by_cases hcut : width ≤ text.length
  · rw [if_pos hcut, if_pos hcut, List.getElem?_take_of_lt hk]
  · rw [if_neg hcut, if_neg hcut, List.append_assoc]
    by_cases hleft : k < (padSplit text.length width aL aR).1
    · rw [if_pos hleft, List.getElem?_append_left (by simpa using hleft), List.getElem?_replicate_of_lt hleft]
    · rw [if_neg hleft, List.getElem?_append_right (by simpa using hleft), List.length_replicate]
      by_cases htext : k < (padSplit text.length width aL aR).1 + text.length
      · rw [if_pos htext, List.getElem?_append_left (by omega)]
      · rw [if_neg htext, List.getElem?_append_right (by omega), List.getElem?_replicate_of_lt (by omega)]

/-! #### The write request's bytes -/

/-- 41/R95: the write request of a string field announces `width` bytes. -/
theorem addressedBytes_stringField (c : Config) (addr : Addr) (text : List Byte) (width : Nat)
    (aL aR sp : Bool) :
    addressedBytes c addr (.data (stringField text width aL aR sp)) =
      headerBytes c addr .writevar width ++ stringField text width aL aR sp := by
  rw [addressedBytes, AddressedPayload.bytes, AddressedPayload.command, stringField_length]

end Sys2Proof

namespace Sys2Proof.Machine

/-! #### A TX operation, where it may be issued, ends as its sending does -/

theorem txOperation_next (send : State → Except Stop State) (s t : State) (hs : s.txAllowed = true)
    (h : send s = .ok t) : txOperation send s = .next t := by
  simp [txOperation, hs, h, Result.ofExcept]

theorem txOperation_stopped (send : State → Except Stop State) (s : State) (r : Refusal)
    (hs : s.txAllowed = true) (h : send s = .error (.refusal r)) : txOperation send s = .refused r := by
  simp [txOperation, hs, h, Result.ofExcept]

/-! #### TX.HEADER, TX.READ, TX.WRITE, PADSPLIT -/

/-- Settles O32: the arm is the refusal. -/
theorem headerAloneRefused : Obligations.HeaderAloneRefused := fun _ _ _ _ => rfl

/-- Settles O33: the read request's layout, written out. -/
theorem readRequestBytes : Obligations.ReadRequestBytes := fun s addr n hs => execTxRead_next addr n s hs

/-- 41/R97: an absent payload is a silent no-op. -/
theorem execTxWrite_absent (addr : Addr) (s : State) (hs : s.txAllowed = true) :
    execTxWrite addr none s = .next s :=
  txOperation_next _ s s hs rfl

/-- 41/R98. -/
theorem execTxWrite_refused (addr : Addr) (d : List Byte) (s : State) (hs : s.txAllowed = true)
    (h : 252 < d.length) : execTxWrite addr (some d) s = .refused .sizeContract :=
  txOperation_stopped _ s _ hs (sendData_refused addr ⟨.ram, d⟩ s h)

/-- Settles O34: absent, within the contract, beyond it. -/
theorem writeRequestBytes : Obligations.WriteRequestBytes := by
  intro s addr hs
  refine ⟨execTxWrite_absent addr s hs, fun d hlen => ?_, fun d hlen => execTxWrite_refused addr d s hs hlen⟩
  rw [List.append_assoc]
  exact execTxWrite_next addr d s hs hlen

/-- Settles O39: the two branches of PADSPLIT. -/
theorem padsplitAnswersItsSplit : Obligations.PadsplitAnswersItsSplit := fun _ _ _ _ _ =>
  ⟨fun hlt => if_pos hlt, fun hge => if_neg (Nat.not_lt.mpr hge)⟩

/-! #### TX.WRITESTR, and the ROM variant through it -/

/-- 20/R38, 41/R96: the bytes sent are a function of the text alone. -/
theorem sendString_space (sp₁ sp₂ : Space) (addr : Addr) (text : List Byte) (width : Nat) (aL aR sp : Bool)
    (s : State) :
    sendString addr ⟨sp₁, text⟩ width aL aR sp s = sendString addr ⟨sp₂, text⟩ width aL aR sp s := by
  by_cases hwidth : width ≤ 252
  · rw [sendString_eq _ _ _ _ _ _ _ hwidth, sendString_eq _ _ _ _ _ _ _ hwidth]
  · have hbeyond : 252 < width := Nat.lt_of_not_le hwidth
    rw [sendString_refused _ _ _ _ _ _ _ hbeyond, sendString_refused _ _ _ _ _ _ _ hbeyond]

/-- 41/R96. -/
theorem execTxWritestrRom_eq (addr : Addr) (text : Option (List Byte)) (width : Nat) (aL aR sp : Bool)
    (s : State) : execTxWritestrRom addr text width aL aR sp s = execTxWritestr addr text width aL aR sp s := by
  cases text with
  | none => rfl
  | some d =>
    exact congrArg (txOperation · s) (funext (sendString_space .rom .ram addr d width aL aR sp))

/-- Settles O36: what is sent does not depend on the space, so neither does what the operation answers. -/
theorem romTextSameAsRam : Obligations.RomTextSameAsRam := fun s addr text width aL aR sp =>
  execTxWritestrRom_eq addr text width aL aR sp s

/-- 41/R97: an absent text is a silent no-op, whatever the width. -/
theorem execTxWritestr_absent (addr : Addr) (width : Nat) (aL aR sp : Bool) (s : State)
    (hs : s.txAllowed = true) : execTxWritestr addr none width aL aR sp s = .next s :=
  txOperation_next _ s s hs rfl

/-- 41/R95: a present text within the contract goes out as the header and the string field. -/
theorem execTxWritestr_next (addr : Addr) (text : List Byte) (width : Nat) (aL aR sp : Bool) (s : State)
    (hs : s.txAllowed = true) (h : width ≤ 252) :
    execTxWritestr addr (some text) width aL aR sp s = .next (s.setTxq
      (s.txq ++ headerBytes s.cfg addr .writevar width ++ stringField text width aL aR sp)) := by
  rw [List.append_assoc, ← addressedBytes_stringField]
  exact txOperation_next _ s _ hs (sendString_eq addr ⟨.ram, text⟩ width aL aR sp s h)

/-- 41/R98. -/
theorem execTxWritestr_refused (addr : Addr) (text : List Byte) (width : Nat) (aL aR sp : Bool) (s : State)
    (hs : s.txAllowed = true) (h : 252 < width) :
    execTxWritestr addr (some text) width aL aR sp s = .refused .sizeContract :=
  txOperation_stopped _ s _ hs (sendString_refused addr ⟨.ram, text⟩ width aL aR sp s h)

/-- Settles O35: the field written out is `stringField`; the ROM variant ends alike. -/
theorem stringFieldBytes : Obligations.StringFieldBytes := by
  intro s addr text width aL aR sp hs hwidth split pad field sent
  have hpresent : execTxWritestr addr (some text) width aL aR sp s = .next sent :=
    execTxWritestr_next addr text width aL aR sp s hs hwidth
  have habsent := execTxWritestr_absent addr width aL aR sp s hs
  exact ⟨hpresent, (execTxWritestrRom_eq ..).trans hpresent, habsent, (execTxWritestrRom_eq ..).trans habsent⟩

/-- Settles O37: the field is `stringField`, read at each index. -/
theorem stringFieldPointwise : Obligations.StringFieldPointwise := fun s addr text width aL aR sp hs hwidth =>
  ⟨stringField text width aL aR sp, stringField_length text width aL aR sp,
    execTxWritestr_next addr text width aL aR sp s hs hwidth, stringField_getElem? text width aL aR sp⟩

/-! #### What the operations have in common -/

/-- Settles O40: the three no-ops, and the read request's length. -/
theorem absentPayloadSendsNothing : Obligations.AbsentPayloadSendsNothing := by
  intro s addr n width aL aR sp hs
  have habsent := execTxWritestr_absent addr width aL aR sp s hs
  refine ⟨execTxWrite_absent addr s hs, habsent, (execTxWritestrRom_eq ..).trans habsent,
    _, execTxRead_next addr n s hs, ?_⟩
  simp [addressedBytes_length, AddressedPayload.bytes]

/-- Settles O41: TX.WRITE by its payload, the string writes by their width. -/
theorem sizeContractRefused : Obligations.SizeContractRefused := by
  intro s addr d text width aL aR sp hs hlen hwidth i hi
  have hstring := execTxWritestr_refused addr text width aL aR sp s hs hwidth
  simp only [List.mem_cons, List.not_mem_nil, or_false] at hi
  rcases hi with rfl | rfl | rfl
  · exact execTxWrite_refused addr d s hs hlen
  · exact hstring
  · exact (execTxWritestrRom_eq ..).trans hstring

/-- 41/R92: TX.READ completes only by sending the read request. -/
theorem execTxRead_sends (addr : Addr) (n : Byte) (s t : State) (h : execTxRead addr n s = .next t) :
    t = { s with txq := s.txq ++ addressedBytes s.cfg addr (.wordCount n) } := by
  obtain ⟨hs, -⟩ := txOperation_effect _ _ _ h
  exact Host.Outcome.next.inj (h.symm.trans (execTxRead_next addr n s hs))

/-- 41/R93: TX.WRITE completes only by sending the write request of its payload, if it has one. -/
theorem execTxWrite_sends (addr : Addr) (d : Option (List Byte)) (s t : State)
    (h : execTxWrite addr d s = .next t) :
    t = { s with txq := s.txq ++ encode s.cfg (.txWrite addr d) } := by
  obtain ⟨-, hsend⟩ := txOperation_effect _ _ _ h
  cases d with
  | none => simpa [encode] using (Except.ok.inj hsend).symm
  | some d => exact sendData_sends addr ⟨.ram, d⟩ s t hsend

/-- 41/R95: TX.WRITESTR completes only by sending the write request of its field, if it has a text. -/
theorem execTxWritestr_sends (addr : Addr) (text : Option (List Byte)) (width : Nat) (aL aR sp : Bool)
    (s t : State) (h : execTxWritestr addr text width aL aR sp s = .next t) :
    t = { s with txq := s.txq ++ encode s.cfg (.txWritestr addr text width aL aR sp) } := by
  obtain ⟨-, hsend⟩ := txOperation_effect _ _ _ h
  cases text with
  | none => simpa [encode] using (Except.ok.inj hsend).symm
  | some d => exact sendString_sends addr ⟨.ram, d⟩ width aL aR sp s t hsend

/-- 30/R53: an outgoing frame completes only by sending its bytes. -/
theorem sendDatagram_sends (addr : Addr) (p : AddressedPayload) (s t : State)
    (h : sendDatagram addr p s = .next t) :
    t = { s with txq := s.txq ++ addressedBytes s.cfg addr p } := by
  obtain ⟨hs, -⟩ := txOperation_effect _ _ _ h
  by_cases hlen : p.bytes.length ≤ 252
  · exact Host.Outcome.next.inj (h.symm.trans (sendDatagram_next addr p s hs hlen))
  · simp [sendDatagram_refused addr p s hs (Nat.lt_of_not_le hlen)] at h

/-- 41/R96: the ROM variant has the bytes of TX.WRITESTR. -/
theorem encode_txWritestrRom (c : Config) (addr : Addr) (text : Option (List Byte)) (width : Nat)
    (aL aR sp : Bool) :
    encode c (.txWritestrRom addr text width aL aR sp) = encode c (.txWritestr addr text width aL aR sp) := by
  cases text <;> rfl

/-- Settles O43: each operation completes only by sending its bytes. -/
theorem txOperationsFrame : Obligations.TxOperationsFrame := by
  intro s t addr n d data p width aL aR sp i hi h
  simp only [List.mem_cons, List.not_mem_nil, or_false] at hi
  rcases hi with rfl | rfl | rfl | rfl | rfl | rfl | rfl
  · exact execTxRead_sends addr n s t h
  · exact execTxWrite_sends addr d s t h
  · exact execTxWritestr_sends addr d width aL aR sp s t h
  · rw [encode_txWritestrRom]
    exact execTxWritestr_sends addr d width aL aR sp s t ((execTxWritestrRom_eq ..).symm.trans h)
  · exact sendDatagram_sends addr p s t h
  · exact sendDatagram_sends addr (.wordCount n) s t h
  · exact sendDatagram_sends addr (.data data) s t h

/-! #### Loop-back -/

/-- 41/R99: the framer accepts the encoder's length byte exactly where the whole frame fits MAX_BUFFER. -/
theorem legalLength_addressed_iff (c : Config) (size : Nat) (h : size ≤ 252) :
    legalLength c (BitVec.ofNat 8 (size + 3)) = true ↔ size + 3 ≤ c.maxBuffer := by
  rw [legalLength_iff, toNat_lengthByte (size + 3) (by omega)]
  exact and_iff_right (Nat.le_add_left 3 size)

/-- Settles O31: an encoder frame is a datagram whose body starts with the address; it is accepted or rejected
at its length byte. -/
theorem loopBackOfEncoderFrames : Obligations.LoopBackOfEncoderFrames := by
  intro s addr p rest hpending hscan hst hsize hq
  have hline := s.undisturbed_of_noPending hpending
  have hlegal := legalLength_addressed_iff s.cfg p.bytes.length hsize
  rw [addressedBytes_eq_frameBytes] at hq
  refine ⟨fun hfits => ?_, fun hexceeds => ?_⟩
  · have hlen := toNat_lengthByte (p.bytes.length + 3) (by omega)
    exact ⟨_, run_frame s _ p.command.code (hi8 addr :: lo8 addr :: p.bytes) rest hline hscan hst
      (hlegal.mpr hfits) hlen.symm hq, rfl, rfl, rfl⟩
  · have hbad : legalLength s.cfg (BitVec.ofNat 8 (p.bytes.length + 3)) = false := by
      rw [← Bool.not_eq_true, hlegal]
      omega
    exact ⟨_, run_badLength s _ _ hline hscan hst hbad hq, rfl, rfl, rfl, rfl⟩

end Sys2Proof.Machine

/-! ### The dispatcher: its lookup and what a handler is given (spec/49) -/

namespace Sys2Proof.Machine

/-! #### The VP lookup -/

/-- 49/R122: rows that are neither the sentinel nor a match are passed over. -/
theorem vpLookup_cons_of_ne {addr : Addr} {r : VpRow} (h0 : r.addr ≠ 0) (hne : r.addr ≠ addr) (t : List VpRow) :
    vpLookup addr (r :: t) = vpLookup addr t := by
  rw [vpLookup, if_neg h0, if_neg hne]

/-- 49/R122: the sentinel ends the scan. -/
theorem vpLookup_cons_of_sentinel {addr : Addr} {r : VpRow} (h0 : r.addr = 0) (t : List VpRow) :
    vpLookup addr (r :: t) = none := by
  rw [vpLookup, if_pos h0]

/-- 49/R115: a row with the address asked for is answered. -/
theorem vpLookup_cons_of_match {addr : Addr} {r : VpRow} (h0 : r.addr ≠ 0) (heq : r.addr = addr) (t : List VpRow) :
    vpLookup addr (r :: t) = some r := by
  rw [vpLookup, if_neg h0, if_pos heq]

/-- 49/R122: an answer is the first match, and the sentinel does not stand before it. -/
theorem vpLookup_some_first {addr : Addr} {row : VpRow} {table : List VpRow} (h : vpLookup addr table = some row) :
    row.addr = addr ∧ addr ≠ 0 ∧
      ∃ before after, table = before ++ row :: after ∧ ∀ r ∈ before, r.addr ≠ addr ∧ r.addr ≠ 0 := by
  induction table with
  | nil => simp [vpLookup] at h
  | cons r t ih =>
    by_cases h0 : r.addr = 0
    · simp [vpLookup_cons_of_sentinel h0] at h
    by_cases heq : r.addr = addr
    · obtain rfl : r = row := by simpa [vpLookup_cons_of_match h0 heq] using h
      exact ⟨heq, heq ▸ h0, [], t, rfl, by simp⟩
    · rw [vpLookup_cons_of_ne h0 heq] at h
      obtain ⟨hrow, hne, before, after, rfl, hbefore⟩ := ih h
      exact ⟨hrow, hne, r :: before, after, rfl, List.forall_mem_cons.mpr ⟨⟨heq, h0⟩, hbefore⟩⟩

/-- 49/R122: with no sentinel before a row that matches, the lookup answers. -/
theorem vpLookup_ne_none_of_match {addr : Addr} {row : VpRow} {before : List VpRow} (after : List VpRow)
    (hbefore : ∀ r ∈ before, r.addr ≠ 0) (h0 : row.addr ≠ 0) (heq : row.addr = addr) :
    vpLookup addr (before ++ row :: after) ≠ none := by
  induction before with
  | nil => simp [vpLookup_cons_of_match h0 heq]
  | cons r t ih =>
    obtain ⟨hr0, ht⟩ := List.forall_mem_cons.mp hbefore
    rw [List.cons_append]
    by_cases hr : r.addr = addr
    · simp [vpLookup_cons_of_match hr0 hr]
    · simpa [vpLookup_cons_of_ne hr0 hr] using ih ht

/-- Settles O56: an answer is the first match before the sentinel, and no answer means that the sentinel
stands before every match. -/
theorem lookupAnswersFirstMatch : Obligations.LookupAnswersFirstMatch := by
  intro addr table
  refine ⟨fun row h => vpLookup_some_first h, fun h hne before row after htable hrow => ?_⟩
  by_contra hnone
  push Not at hnone
  exact vpLookup_ne_none_of_match after hnone (hrow ▸ hne) hrow (htable ▸ h)

/-! #### The handler's payload -/

/-- 49/R117: data without FF is kept whole up to a terminator. -/
theorem untilTerminator_append_terminator (data junk : List Byte) (h : ∀ b ∈ data, b ≠ 0xFF#8) :
    untilTerminator (data ++ 0xFF#8 :: 0xFF#8 :: junk) = data := by
  induction data with
  | nil => simp [untilTerminator]
  | cons b t ih =>
    obtain ⟨hb, ht⟩ := List.forall_mem_cons.mp h
    simp [untilTerminator, hb, ih ht]

/-- Settles O54: the text before the terminator is the data, and the buffer is filled up with zeros. -/
theorem stringPayloadStopsAtTerminator : Obligations.StringPayloadStopsAtTerminator := by
  intro hi lo w data junk size hdata
  have htext := untilTerminator_append_terminator data junk hdata
  have hfill : size - min size data.length = size - data.length := by omega
  simp [stringPayload, htext, hfill]

/-- 49/R118: within a body the dispatcher reads the body's own bytes. -/
theorem bodyByte_append_right (past : Nat → Byte) (hd data : List Byte) (k : Nat) (hk : k < data.length) :
    bodyByte past (hd ++ data) (hd.length + k) = data[k] := by
  simp [bodyByte, hk]

/-- 49/R118: `size` reads from `body[3]` on are the first `size` bytes of the data. -/
theorem map_bodyByte_eq_take (past : Nat → Byte) (hd data : List Byte) (size : Nat) (h : size ≤ data.length) :
    ((List.range size).map fun k => bodyByte past (hd ++ data) (hd.length + k)) = data.take size := by
  refine List.ext_getElem (by simp [h]) fun k hk _ => ?_
  have hsize : k < size := by simpa using hk
  simp [bodyByte_append_right past hd data k (by omega)]

/-- 49/R118: a found row with a handler, a size and no string flag compares the declared length. -/
theorem dispatchVp_of_fixed (past : Nat → Byte) {table : List VpRow} {addr : Addr} {row : VpRow}
    (declared : Nat) (body : List Byte) (hfound : vpLookup addr table = some row) (hhandler : row.handler ≠ none)
    (hsize : row.size ≠ 0) (hfixed : row.rxString = false) :
    dispatchVp past table addr declared body =
      if declared = row.size.toNat then
        .handled ⟨row, some ((List.range row.size.toNat).map fun k => bodyByte past body (3 + k))⟩
      else .sizeMismatch := by
  simp only [dispatchVp, hfound, if_neg hhandler, if_neg hsize, hfixed, Bool.false_eq_true, if_false]

/-- Settles O55: the handler of a fixed row is given the first `size` data bytes, and only for the declared
length that is its size. -/
theorem fixedPayloadNeedsDeclaredLength : Obligations.FixedPayloadNeedsDeclaredLength := by
  intro past table addr row hd data declared hfound hhandler hsize hfixed hhd hlen
  have hpayload := map_bodyByte_eq_take past hd data row.size.toNat hlen
  rw [hhd] at hpayload
  rw [dispatchVp_of_fixed past declared _ hfound hhandler hsize hfixed, hpayload]

/-! #### Write acknowledgments -/

/-- 49/R112, R119: a WRITEVAR hand-off is an acknowledgment or no command of the dispatcher's. -/
theorem dispatchOne_writevar (c : Config) (past : Nat → Byte) (h : HandOff) (hcmd : h.cmd = 0x82#8) :
    dispatchOne c past h = if h.body.take 2 = [0x4F#8, 0x4B#8] then .acknowledged else .otherCommand := by
  simp [dispatchOne, hcmd, WireCommand.code, ackBody]

/-- Settles O53: a WRITEVAR hand-off has two outcomes, and neither invokes a handler. -/
theorem writeAckNeverHandled : Obligations.WriteAckNeverHandled := by
  intro c past h hcmd
  rw [dispatchOne_writevar c past h hcmd]
  refine ⟨fun hok => if_pos hok, fun call => ?_⟩
  split <;> nofun

end Sys2Proof.Machine

/-! ### Engine initialisation at any time, and a hold that no overrun ends (spec/70) -/

namespace Sys2Proof.Machine

/-! #### Engine initialisation -/

/-- 70/R150: a reset that is first in line and may act is performed on the state with itself taken off. -/
theorem step_reset (s : State) (w : Bool) (rest : List Pending) (hp : s.pending = ⟨w, .reset⟩ :: rest)
    (hfirst : s.inService = false ∨ w = true) : step s = .next (s.setPending rest).engineReset :=
  step_of_become s _ (fetch_of_pending s ⟨w, .reset⟩ rest hp hfirst)

/-- Settles O2: the fields of the initialised engine, and a `buf` with no byte written. -/
theorem engineResetLeavesTransport : Obligations.EngineResetLeavesTransport := fun s w rest hp hfirst =>
  ⟨_, step_reset s w rest hp hfirst, rfl, rfl, rfl, rfl, rfl, rfl, fun _ => rfl, rfl, rfl, rfl, rfl, rfl⟩

/-! #### A SERVICE on a held frame -/

/-- 40/R71 (corner case b): with a byte in the FIFO, RX.OVERRUN is not enabled, whatever the indicator. -/
theorem State.overrunEnabled_of_rxAvail (s : State) (h : 1 ≤ s.rxAvail) : s.overrunEnabled = false := by
  refine Bool.eq_false_iff.mpr fun henabled => ?_
  obtain ⟨-, -, hq⟩ := s.overrunEnabled_iff.mp henabled
  simp [State.rxAvail, hq] at h

/-- 40/R75: a byte-loop step on a held frame ends the invocation. -/
theorem step_of_held (s : State) (hmoves : s.blockMoves) (hscan : s.scanning = true) (hheld : s.held) :
    step s = .next s.endService := by
  obtain ⟨hst, hsome, hfew⟩ := hheld
  obtain ⟨b, t, hq⟩ := List.exists_cons_of_length_pos hsome
  exact step_awaitingBody_short s b t hmoves hscan hq hst (by simpa [State.rxAvail, hq] using hfew)

/-- Settles O28: the invocation begins, passes the overrun check because of the bytes in the FIFO, and is
ended by RX.HOLD; the phase is again what it was. -/
theorem heldFrameIsNotRecovered : Obligations.HeldFrameIsNotRecovered := by
  intro s hline hphase hheld
  have ⟨_, hsome, _⟩ := hheld
  have hbegin : step s = .next s.beginService :=
    (outerLoopPolls s hline hphase).trans ((serviceBeginsInvocation s).1 hphase)
  have hcheck : step s.beginService = .next s.beginService.passOverrunCheck :=
    step_entry_quiet _ ⟨rfl, s.undisturbed_of_noPending hline⟩ rfl (s.beginService.overrunEnabled_of_rxAvail hsome)
  have hhold : step s.beginService.passOverrunCheck = .next s.beginService.passOverrunCheck.endService :=
    step_of_held _ (State.blockMoves_of_scanning _ (s.undisturbed_of_noPending hline) rfl) rfl hheld
  have hrestored : s.beginService.passOverrunCheck.endService = { s with draws := s.draws + 1 } := by
    simp only [State.beginService, State.passOverrunCheck, State.advanceDraw, State.endService, State.setPhase,
      State.setDraws, ← hphase]
  rw [← hrestored]
  exact (run_succ hbegin 2).trans ((run_succ hcheck 1).trans (run_succ hhold 0))

end Sys2Proof.Machine
